-- ==== Sys2Proof/Word.lean ====
section
/-! DEFINITION. The two widths the block uses: a byte (opcodes, data bytes) and the 32-bit word of every register
(R8, R16). -/

namespace Sys2Proof

/-- Opcodes and data bytes (R8). -/
abbrev Byte := BitVec 8

/-- Registers, frame words, transfer addresses and lengths (R8, R16). -/
abbrev Word := BitVec 32

end Sys2Proof
end

