-- ==== Sys2Proof/Syntax.lean ====
section
/-! DEFINITION. The records the block consumes and produces (30_encoding.md R52-R66, 10_state.md R31-R32) and Instr, one
constructor for each row of spec/opcode_table.json. -/

namespace Sys2Proof

/-- The seven members of the descriptor's `ioWidth` (R54). -/
inductive IoWidth where
  | single | dual | quad | dualIO | quadIO | dualCmd | quadCmd
deriving DecidableEq, Repr

/-- The descriptor's `transferDirection` (R55, R64). -/
inductive Direction where
  | read | write | readMemory | writeMemory
deriving DecidableEq, Repr

/-- The role of a request's buffer (R66). -/
inductive Role where
  | noBuffer | tx | rx
deriving DecidableEq, Repr

/-- `P_ADDR_LEN` and the frame's `ADDRLEN` field: 24 or 32 address bits (R7, R58). -/
inductive AddrLen where
  | a24 | a32
deriving DecidableEq, Repr

/-- InstructionDescriptor (R64). -/
structure Descriptor where
  opcode       : Byte
  hasAddress   : Bool
  hasData      : Bool
  dummyCycles  : Nat
  ioWidth      : IoWidth
  direction    : Direction
deriving DecidableEq, Repr

/-- TransferRequest, extended by a buffer role and the cache opt-out (R65, R66). -/
structure Request where
  instruction : Descriptor
  address     : Word
  role        : Role
  buffer      : List Byte
  length      : Word
  optOut      : Bool
deriving DecidableEq, Repr

/-- The fields of a frame word other than `TFRTYPE`, which the four FRAME rows fix (R52). -/
structure FrameFields where
  width   : BitVec 3
  instrEn : Bool
  addrEn  : Bool
  optEn   : Bool
  dataEn  : Bool
  optLen  : BitVec 2
  addrLen : AddrLen
  crMode  : Bool
  ddrEn   : Bool
  dummy   : BitVec 5
deriving DecidableEq, Repr

/-- The instructions: one constructor for each row of spec/opcode_table.json, in the table's order. -/
inductive Instr where
  /-- READ: the controller performs a frame with `TFRTYPE` = 0 (R94). -/
  | frameRead (f : FrameFields)
  /-- READMEMORY: a frame with `TFRTYPE` = 1 (R94). -/
  | frameReadMemory (f : FrameFields)
  /-- WRITE: a frame with `TFRTYPE` = 2 (R94). -/
  | frameWrite (f : FrameFields)
  /-- WRITEMEMORY: a frame with `TFRTYPE` = 3 (R94). -/
  | frameWriteMemory (f : FrameFields)
  /-- runCommand(op) [nocache] (R125). -/
  | runCommand (op : Byte) (nocache : Bool)
  /-- readCommand(op, len) [nocache] (R126). -/
  | readCommand (op : Byte) (len : Word) (nocache : Bool)
  /-- writeCommand(op, bytes) [nocache] with at least one byte (R127). -/
  | writeCommand (op : Byte) (bytes : List Byte) (nocache : Bool)
  /-- writeCommand_len0: writeCommand(op, []) [nocache] (R127). -/
  | writeCommandLen0 (op : Byte) (nocache : Bool)
  /-- eraseCommand(op, address) [nocache] (R128). -/
  | eraseCommand (op : Byte) (address : Word) (nocache : Bool)
  /-- readMemory(address, len) [nocache] (R129). -/
  | readMemory (address : Word) (len : Word) (nocache : Bool)
  /-- writeMemory(address, bytes) [nocache] (R130). -/
  | writeMemory (address : Word) (bytes : List Byte) (nocache : Bool)
  /-- WR_INSTRCTRL: W32 INSTRCTRL, zext_32(op) (R88). -/
  | wrInstrctrl (op : Byte)
  /-- WR_INSTRADDR: W32 INSTRADDR, a (R89). -/
  | wrInstraddr (a : Word)
  /-- WR_INSTRFRAME: W32 INSTRFRAME, w (R90). -/
  | wrInstrframe (w : Word)
  /-- RD_INSTRFRAME: R32 INSTRFRAME, the settle read-back (R91). -/
  | rdInstrframe
  /-- WIN_RD: R8 WIN+o (R92). -/
  | winRd (o : Word)
  /-- WIN_WR: W8 WIN+o, v (R93). -/
  | winWr (o : Word) (v : Byte)
  /-- START: W32 CTRLA, 0x0100_0002 (R94). -/
  | start
  /-- RD_INTFLAG: POLL INTFLAG.INSTREND == 1 (R98). -/
  | rdIntflag
  /-- CLR_INTFLAG: W32 INTFLAG, 0x0000_0400 (R99). -/
  | clrIntflag
  /-- CACHE_DISABLE: W32 CMCC_CTRL, 0 (R101). -/
  | cacheDisable
  /-- CACHE_ENABLE: W32 CMCC_CTRL, 1 (R104). -/
  | cacheEnable
  /-- RD_CMCC_SR: POLL CMCC_SR.CSTS == 0 (R102). -/
  | rdCmccSr
  /-- CACHE_INVALIDATE: W32 CMCC_MAINT0, 1 (R103). -/
  | cacheInvalidate
  /-- DSB: the first barrier (R95). -/
  | dsb
  /-- ISB: the second barrier (R96). -/
  | isb
  /-- COMPLETE: the controller's own step (R97). -/
  | complete
  /-- CACHE_SETTLE: the cache controller's own step (R105). -/
  | cacheSettle
  /-- ENCODE(d, txPresent, length) (R74). -/
  | encode (d : Descriptor) (txPresent : Bool) (length : Word)
  /-- EXEC: the executor's next step on its latched request (R107, R109-R118). -/
  | exec
  /-- SUBMIT(r): the caller submits a request (R108). -/
  | submit (r : Request)
  /-- SETCLK(hz) (R122). -/
  | setclk (hz : Nat)
deriving DecidableEq, Repr

/-- The block's eight registers (R16). -/
inductive Reg where
  | ctrla | intflag | instraddr | instrctrl | instrframe | cmccCtrl | cmccSr | cmccMaint0
deriving DecidableEq, Repr

/-- The direction of a frame's data phase (R32). -/
inductive Dir where
  | noData | dirOut | dirIn
deriving DecidableEq, Repr

/-- The record of one bus transaction (R32). -/
structure FrameEvent where
  seq     : Nat
  opcode  : Byte
  width   : BitVec 3
  instrEn : Bool
  addrEn  : Bool
  optEn   : Bool
  dataEn  : Bool
  crMode  : Bool
  ddrEn   : Bool
  addrLen : AddrLen
  addr    : Word
  optLen  : BitVec 2
  optCode : Byte
  tfrType : BitVec 2
  dummy   : BitVec 5
  dir     : Dir
  data    : List Byte
deriving DecidableEq, Repr

/-- The two barriers (R47). -/
inductive Barrier where
  | dsb | isb
deriving DecidableEq, Repr

/-- What a request returns: `OK(bytes)` or `FAIL` (R118). -/
inductive Result where
  | ok (bytes : List Byte)
  | fail
deriving DecidableEq, Repr

/-- The events of the history (R31). -/
inductive Event where
  | regWrite (r : Reg) (v : Word)
  | regRead (r : Reg) (v : Word)
  | winRead (offset : Nat) (b : Byte)
  | winWrite (offset : Nat) (b : Byte)
  | barrier (k : Barrier)
  | frame (e : FrameEvent)
  | complete (seq : Nat)
  | cacheInvalidate
  | cacheStatus (csts : Bool)
  | request (r : Request)
  | returned (res : Result)
deriving DecidableEq, Repr

/-- A bus access by an agent other than the executor (R140). -/
structure Access where
  write : Bool
  bytes : Nat
  addr  : Word
  value : Word
deriving DecidableEq, Repr

/-- The nine checks of a request, by the names R73 gives them. -/
inductive Check where
  | wf1 | wf2 | wf3 | wf4 | wf5 | wf6 | wf7 | wf8 | wf9
deriving DecidableEq, Repr

/-- Why the decoder gives a byte string no meaning; each is a name of its own. -/
inductive Reject where
  /-- fewer bytes than the instruction has -/
  | truncated
  /-- no row of the table has this row number -/
  | unknownRow
  /-- the table word is not one of the named row, or of any row -/
  | wordMismatch
  /-- a byte that stands for a Bool, a width or a direction holds none of its values -/
  | badField
  /-- the operands fail `Instr.wellFormed` -/
  | illFormed
deriving DecidableEq, Repr

end Sys2Proof
end

