-- ==== Sys2Proof/Config.lean ====
section
/-! DEFINITION. What an implementation fixes (the parameters of 00_scope.md R7, as a record of plain data; their
defaults and the addresses made from them are in Machine/Platform.lean) and the free
values: opaque constants with no body, about which nothing can be proved (R11 "draw"; R33, R98, R118, R97, R105). -/

namespace Sys2Proof

/-- The agents that take steps without a program (R6): the executor, the QSPI controller, the cache controller. -/
inductive Agent where
  | executor | controller | cache
deriving DecidableEq, Repr, Inhabited

/-- `FlashRead(history, seq, k)`: the byte the flash drives for the k-th window read of frame `seq` (R33). A free value. -/
opaque Config.flashRead : List Event → Nat → Nat → Byte

/-- `Wedge.frame(seq)`: whether that frame never completes (R97). A free value. -/
opaque Config.wedgeFrame : Nat → Bool

/-- `Wedge.cache(n)`: whether the cache never stops after the n-th disable (R105). A free value. -/
opaque Config.wedgeCache : Nat → Bool

/-- The 32 bits drawn at a read of `INTFLAG` (R18, R98), one for each draw number. A free value. -/
opaque Config.intflagBits : Nat → Word

/-- Whether a request returns `FAIL` where failure is admitted (R118), one for each draw number. A free value. -/
opaque Config.drawFail : Nat → Bool

/-- Which agent takes the next step where no script fixes it (R157), one for each draw number. A free value. -/
opaque Config.nextAgent : Nat → Agent

/-- The byte a copy would send past the end of its buffer; WF5 makes the case unreachable. A free value (Log 26). -/
opaque Config.absentByte : Nat → Byte

/-- Answers of the outside world that a state fixes in advance, as finite tables; what a table does not list is the free
value above. They let a state say which bytes the flash drives, as the vectors of 95_test_vectors.md do (Log 23). -/
structure Oracle where
  flash      : List ((Nat × Nat) × Byte)
  wedgeFrame : List (Nat × Bool)
  wedgeCache : List (Nat × Bool)
  intflag    : List (Nat × Word)
  fail       : List (Nat × Bool)
  agent      : List (Nat × Agent)
deriving DecidableEq, Repr

/-- The parameters of R7, and the two launch values the spec leaves to a draw (R30 `lines`, R35 `clockHz`). No step
changes them (R35). -/
structure Params where
  addrLen         : AddrLen
  qspiBase        : Word
  cmccBase        : Word
  windowBase      : Word
  windowSize      : Nat
  qreadDummy      : BitVec 5
  qreadOpcode     : Byte
  qprogOpcode     : Byte
  cachePresent    : Bool
  failureAdmitted : Bool
  cenAtLaunch     : Bool
  linesAtLaunch   : List Nat
  clockAtLaunch   : Nat
  oracle          : Oracle
deriving DecidableEq, Repr

end Sys2Proof
end

