-- ==== Sys2Proof/Machine/Encoder.lean ====
section
/-! DEFINITION. The Instruction Frame Encoder: the frame word's layout (30_encoding.md R52) and `ENCODE`
(40_frame_encoder.md R72-R84). -/

namespace Sys2Proof

/-- `widthCode` (R54, R75). -/
def IoWidth.code : IoWidth → BitVec 3
  | .single  => 0
  | .dual    => 1
  | .quad    => 2
  | .dualIO  => 3
  | .quadIO  => 4
  | .dualCmd => 5
  | .quadCmd => 6

/-- `typeCode` (R55, R81): the `TFRTYPE` a direction selects before the override. -/
def Direction.code : Direction → BitVec 2
  | .read        => 0
  | .readMemory  => 1
  | .write       => 2
  | .writeMemory => 3

/-- The effective type: the base type, made a write by the data-direction override when transmit data and a nonzero
length are present (R81, R82). -/
def effectiveType (dir : Direction) (txPresent : Bool) (length : Word) : BitVec 2 :=
  if txPresent && length != 0 then dir.code ||| 0b10 else dir.code

/-- `ADDRLEN` = 1 selects 32 address bits (R58). -/
def AddrLen.bit : AddrLen → Bool
  | .a24 => false
  | .a32 => true

/-- The number of bits of an address phase (R58). -/
def AddrLen.bits : AddrLen → Nat
  | .a24 => 24
  | .a32 => 32

/-- The length an `ADDRLEN` bit selects (R58). -/
def AddrLen.ofBit : Bool → AddrLen
  | false => .a24
  | true  => .a32

/-- `v[bits-1:0]`: the low address bits that reach the bus (R19, R32, R90). -/
def AddrLen.low (a : AddrLen) (v : Word) : Word :=
  match a with
  | .a24 => v &&& 0x00FFFFFF
  | .a32 => v

/-- A one-bit field at bit `i` of a word. -/
def bitField (b : Bool) (i : Nat) : Word := if b then BitVec.twoPow 32 i else 0

/-- The frame word of a transfer type and the other fields, each shifted to its place; the bits of no field are 0 (R52). -/
def frameWord (t : BitVec 2) (f : FrameFields) : Word :=
  f.width.setWidth 32 ||| bitField f.instrEn 4 ||| bitField f.addrEn 5 ||| bitField f.optEn 6 ||| bitField f.dataEn 7
    ||| (f.optLen.setWidth 32 <<< 8) ||| bitField f.addrLen.bit 10 ||| (t.setWidth 32 <<< 12)
    ||| bitField f.crMode 14 ||| bitField f.ddrEn 15 ||| (f.dummy.setWidth 32 <<< 16)

/-- The fields `ENCODE` gives a descriptor (R74, each line one of R75-R84). -/
def encodeFields (a : AddrLen) (d : Descriptor) : FrameFields where
  width   := d.ioWidth.code
  instrEn := true
  addrEn  := d.hasAddress
  optEn   := false
  dataEn  := d.hasData
  optLen  := 0
  addrLen := a
  crMode  := false
  ddrEn   := false
  dummy   := BitVec.ofNat 5 d.dummyCycles

/-- `ENCODE(d, txPresent, length)` under `P_ADDR_LEN` = `a` (R72, R74). -/
def encodeFrame (a : AddrLen) (d : Descriptor) (txPresent : Bool) (length : Word) : Word :=
  frameWord (effectiveType d.direction txPresent length) (encodeFields a d)

end Sys2Proof
end

