-- ==== Sys2Proof/Machine/Platform.lean ====
section
/-! DEFINITION. The default parameters (00_scope.md R7) and the address map made from the parameters (10_state.md R16,
20_memory.md R36, R43). -/

namespace Sys2Proof

/-- Nothing fixed in advance. -/
def Oracle.open : Oracle where
  flash      := []
  wedgeFrame := []
  wedgeCache := []
  intflag    := []
  fail       := []
  agent      := []

/-- The defaults of R7. PRESUMED (Log 3): `cenAtLaunch`, which R7 leaves OPEN, is the family's reset value, cache off.
DESIGN CHOICE (Log 4): `linesAtLaunch` empty and `clockAtLaunch` 0, which R149 leaves open. -/
def Params.default : Params where
  addrLen         := .a24
  qspiBase        := 0x42003400
  cmccBase        := 0x41006000
  windowBase      := 0x04000000
  windowSize      := 0x01000000
  qreadDummy      := 8
  qreadOpcode     := 0x6B
  qprogOpcode     := 0x32
  cachePresent    := true
  failureAdmitted := true
  cenAtLaunch     := false
  linesAtLaunch   := []
  clockAtLaunch   := 0
  oracle          := .open

/-- The byte offset of a register within its controller's block (R16). -/
def Reg.offset : Reg → Word
  | .ctrla      => 0x00
  | .intflag    => 0x1C
  | .instraddr  => 0x30
  | .instrctrl  => 0x34
  | .instrframe => 0x38
  | .cmccCtrl   => 0x08
  | .cmccSr     => 0x0C
  | .cmccMaint0 => 0x20

/-- The byte address of a register (R16): `P_QSPI_BASE + offset` or `P_CMCC_BASE + offset`. -/
def Params.regAddr (p : Params) (r : Reg) : Word :=
  match r with
  | .ctrla | .intflag | .instraddr | .instrctrl | .instrframe => p.qspiBase + r.offset
  | .cmccCtrl | .cmccSr | .cmccMaint0 => p.cmccBase + r.offset

/-- All eight registers. -/
def Reg.all : List Reg :=
  [.ctrla, .intflag, .instraddr, .instrctrl, .instrframe, .cmccCtrl, .cmccSr, .cmccMaint0]

/-- An address of the window `[P_WINDOW_BASE, P_WINDOW_BASE + P_WINDOW_SIZE)` (R36). -/
def Params.inWindow (p : Params) (a : Word) : Bool :=
  p.windowBase.toNat ≤ a.toNat && a.toNat < p.windowBase.toNat + p.windowSize

/-- The four byte addresses of a register (R16, R43). -/
def Params.regBytes (p : Params) (r : Reg) : List Word := (List.range 4).map (fun k => p.regAddr r + BitVec.ofNat 32 k)

/-- The ranges of R7, any word-aligned bases, and the disjointness of R43: no two registers at one address, which at word
alignment keeps all their bytes apart, and no byte of a register in the window. A register's address is `base + offset` as a
32-bit sum, which by R9 wraps (DEDUCED, Log 32). The `lines` at launch are a set of window offsets (R30), a sorted list
without repeats. -/
def Params.wf (p : Params) : Bool :=
  p.qspiBase.toNat % 4 = 0 && p.cmccBase.toNat % 4 = 0
  && 1 ≤ p.windowSize && p.windowBase.toNat + p.windowSize ≤ 2 ^ 32
  && (Reg.all.map p.regAddr).Nodup
  && Reg.all.all (fun r => (p.regBytes r).all (fun a => !p.inWindow a))
  && decide (p.linesAtLaunch.Pairwise (· < ·)) && p.linesAtLaunch.all (fun o => o < p.windowSize)

end Sys2Proof
end

