-- ==== Sys2Proof/WellFormed.lean ====
section
/-! DEFINITION. Which terms of Instr are instructions: the operand ranges the spec gives (R14, R61, R65, R72, R127). -/

namespace Sys2Proof

/-- A list whose length a 32-bit count holds (R65: `length` is 32 bits). -/
def fits32 (bytes : List Byte) : Bool := bytes.length < 2 ^ 32

/-- The checks of an instruction's operands:
- FRAME: `WIDTH` = 7 is reserved (R61);
- writeCommand: at least one byte (R127; the empty list is writeCommand_len0), and a count of 32 bits (R65);
- writeMemory: a count of 32 bits (R65);
- WIN_RD, WIN_WR: a window offset (R14, R36);
- ENCODE: a `dummyCycles` that `DUMMYLEN` holds (R59, R73 WF2). R73 has the executor call ENCODE on well-formed requests only;
  that the row runs on every other operand and gives R74's word is the model's (DESIGN CHOICE, Log 33). -/
def Instr.wellFormed (p : Params) : Instr → Bool
  | .frameRead f | .frameReadMemory f | .frameWrite f | .frameWriteMemory f => f.width != 7
  | .writeCommand _ bytes _ => bytes != [] && fits32 bytes
  | .writeMemory _ bytes _ => fits32 bytes
  | .winRd o => o.toNat < p.windowSize
  | .winWr o _ => o.toNat < p.windowSize
  | .encode d _ _ => d.dummyCycles ≤ 31
  | .runCommand _ _ | .readCommand _ _ _ | .writeCommandLen0 _ _ | .eraseCommand _ _ _ | .readMemory _ _ _ => true
  | .wrInstrctrl _ | .wrInstraddr _ | .wrInstrframe _ | .rdInstrframe | .start | .rdIntflag | .clrIntflag => true
  | .cacheDisable | .cacheEnable | .rdCmccSr | .cacheInvalidate => true
  | .dsb | .isb | .complete | .cacheSettle | .exec | .submit _ | .setclk _ => true

end Sys2Proof
end

