-- ==== Sys2Proof/Decode.lean ====
section
/-! DEFINITION. The decoder of frame words (30_encoding.md R52, R61, R63, R68), the table's rows as patterns of a word (R67),
the decoder of an instruction's bytes, total on any bytes and rejecting by name, and after it the encoder. The spec gives the
rows' words and operands and no bytes that carry them: the byte form is the model's (Log 8, Log 9, Log 10):
  the row's word, 4 bytes | the row's number, 1 byte | the operands, in the order of the constructor's arguments.
A row number 0 leaves the row to the word itself (the most specific row that matches it); 255 is a foreign access. -/

namespace Sys2Proof

/-! ## Frame words -/

/-- A reserved bit is set, or `WIDTH` = 7 (R61). -/
def reservedWord (w : Word) : Bool :=
  w.getLsbD 3 || w.getLsbD 11 || w.extractLsb' 21 11 != 0 || w.extractLsb' 0 3 == 7

/-- `TFRTYPE`, bits 13:12 (R52, R55). -/
def tfrType (w : Word) : BitVec 2 := w.extractLsb' 12 2

/-- The other fields of a frame word (R68). -/
def frameFields (w : Word) : FrameFields where
  width   := w.extractLsb' 0 3
  instrEn := w.getLsbD 4
  addrEn  := w.getLsbD 5
  optEn   := w.getLsbD 6
  dataEn  := w.getLsbD 7
  optLen  := w.extractLsb' 8 2
  addrLen := AddrLen.ofBit (w.getLsbD 10)
  crMode  := w.getLsbD 14
  ddrEn   := w.getLsbD 15
  dummy   := w.extractLsb' 16 5

/-- What `DECODE` returns: the fields together with the verdict, `reserved` or `ok` (R68). -/
structure DecodedFrame where
  tfrType  : BitVec 2
  fields   : FrameFields
  reserved : Bool
deriving DecidableEq, Repr

/-- `DECODE(w)`, total (R68). -/
def decodeFrame (w : Word) : DecodedFrame where
  tfrType  := tfrType w
  fields   := frameFields w
  reserved := reservedWord w

/-- The words `ENCODE` can return under `P_ADDR_LEN` = `a` (R63). -/
def inImage (a : AddrLen) (w : Word) : Bool :=
  w.extractLsb' 21 11 == 0 && !w.getLsbD 15 && !w.getLsbD 14 && !w.getLsbD 11 && w.getLsbD 10 == a.bit
    && w.extractLsb' 8 2 == 0 && !w.getLsbD 6 && w.getLsbD 4 && !w.getLsbD 3 && w.extractLsb' 0 3 != 7

/-- The data lines of the instruction phase, of the address and option phases, and of the data phase that a `WIDTH` code
selects; no rule depends on them (R53). -/
def widthLines (width : BitVec 3) : Option (Nat × Nat × Nat) :=
  match width.toNat with
  | 0 => some (1, 1, 1)
  | 1 => some (1, 1, 2)
  | 2 => some (1, 1, 4)
  | 3 => some (1, 2, 2)
  | 4 => some (1, 4, 4)
  | 5 => some (2, 2, 2)
  | 6 => some (4, 4, 4)
  | _ => none

/-- The bits of the option code that an `OPTCODELEN` value selects (R57). -/
def optCodeBits (optLen : BitVec 2) : Nat := 2 ^ optLen.toNat

/-! ## Rows of the table -/

/-- The rows of spec/opcode_table.json, in its order. -/
inductive Row where
  | frameRead | frameReadMemory | frameWrite | frameWriteMemory
  | runCommand | readCommand | writeCommand | writeCommandLen0 | eraseCommand | readMemory | writeMemory
  | wrInstrctrl | wrInstraddr | wrInstrframe | rdInstrframe | winRd | winWr | start | rdIntflag | clrIntflag
  | cacheDisable | cacheEnable | rdCmccSr | cacheInvalidate
  | dsb | isb | complete | cacheSettle | encode | exec | submit | setclk
deriving DecidableEq, Repr

/-- The row an instruction belongs to. -/
def Instr.row : Instr → Row
  | .frameRead _          => .frameRead
  | .frameReadMemory _    => .frameReadMemory
  | .frameWrite _         => .frameWrite
  | .frameWriteMemory _   => .frameWriteMemory
  | .runCommand _ _       => .runCommand
  | .readCommand _ _ _    => .readCommand
  | .writeCommand _ _ _   => .writeCommand
  | .writeCommandLen0 _ _ => .writeCommandLen0
  | .eraseCommand _ _ _   => .eraseCommand
  | .readMemory _ _ _     => .readMemory
  | .writeMemory _ _ _    => .writeMemory
  | .wrInstrctrl _        => .wrInstrctrl
  | .wrInstraddr _        => .wrInstraddr
  | .wrInstrframe _       => .wrInstrframe
  | .rdInstrframe         => .rdInstrframe
  | .winRd _              => .winRd
  | .winWr _ _            => .winWr
  | .start                => .start
  | .rdIntflag            => .rdIntflag
  | .clrIntflag           => .clrIntflag
  | .cacheDisable         => .cacheDisable
  | .cacheEnable          => .cacheEnable
  | .rdCmccSr             => .rdCmccSr
  | .cacheInvalidate      => .cacheInvalidate
  | .dsb                  => .dsb
  | .isb                  => .isb
  | .complete             => .complete
  | .cacheSettle          => .cacheSettle
  | .encode _ _ _         => .encode
  | .exec                 => .exec
  | .submit _             => .submit
  | .setclk _             => .setclk

/-- A row's number: its place in the table, counted from 1 (Log 8). -/
def Row.number : Row → Byte
  | .frameRead        => 1
  | .frameReadMemory  => 2
  | .frameWrite       => 3
  | .frameWriteMemory => 4
  | .runCommand       => 5
  | .readCommand      => 6
  | .writeCommand     => 7
  | .writeCommandLen0 => 8
  | .eraseCommand     => 9
  | .readMemory       => 10
  | .writeMemory      => 11
  | .wrInstrctrl      => 12
  | .wrInstraddr      => 13
  | .wrInstrframe     => 14
  | .rdInstrframe     => 15
  | .winRd            => 16
  | .winWr            => 17
  | .start            => 18
  | .rdIntflag        => 19
  | .clrIntflag       => 20
  | .cacheDisable     => 21
  | .cacheEnable      => 22
  | .rdCmccSr         => 23
  | .cacheInvalidate  => 24
  | .dsb              => 25
  | .isb              => 26
  | .complete         => 27
  | .cacheSettle      => 28
  | .encode           => 29
  | .exec             => 30
  | .submit           => 31
  | .setclk           => 32

/-- The template rows (R67 (2)). -/
def Row.templates : List Row :=
  [.runCommand, .readCommand, .writeCommand, .writeCommandLen0, .eraseCommand, .readMemory, .writeMemory]

/-- The rows a word alone selects, the most specific first: register and window addresses, then template words, then frame
kinds; of two rows with one word, the read before the write, the disable before the enable, readCommand before
writeCommand_len0 (Log 9). OPERATION rows match no bits and are selected by number only (R67 (4)). -/
def Row.byWord : List Row :=
  [.wrInstrctrl, .wrInstraddr, .rdInstrframe, .wrInstrframe, .start, .rdIntflag, .clrIntflag,
   .cacheDisable, .cacheEnable, .rdCmccSr, .cacheInvalidate, .winRd, .winWr,
   .runCommand, .readCommand, .writeCommand, .writeCommandLen0, .eraseCommand, .readMemory, .writeMemory,
   .frameRead, .frameReadMemory, .frameWrite, .frameWriteMemory]

/-- The rows with a number. -/
def Row.all : List Row :=
  [.frameRead, .frameReadMemory, .frameWrite, .frameWriteMemory,
   .runCommand, .readCommand, .writeCommand, .writeCommandLen0, .eraseCommand, .readMemory, .writeMemory,
   .wrInstrctrl, .wrInstraddr, .wrInstrframe, .rdInstrframe, .winRd, .winWr, .start, .rdIntflag, .clrIntflag,
   .cacheDisable, .cacheEnable, .rdCmccSr, .cacheInvalidate,
   .dsb, .isb, .complete, .cacheSettle, .encode, .exec, .submit, .setclk]

/-- The row of a row number. -/
def Row.ofNumber (n : Byte) : Option Row := Row.all.find? (fun r => r.number == n)

/-- The masked bits of a word are those of a row's match (R67). -/
def hasBits (mask bits w : Word) : Bool := w &&& mask = bits

/-- A word without a reserved encoding that has this `TFRTYPE` (R61, R67 (1)). -/
def isFrame (t : BitVec 2) (w : Word) : Bool := tfrType w == t && !reservedWord w

/-- Whether a word is one of a row's words: the row's mask and match (R67), the register addresses and the window taken from
the parameters; a frame word with a reserved bit set is no row's (R61); an OPERATION row has the word 0. -/
def Row.matchesWord (p : Params) (r : Row) (w : Word) : Bool :=
  match r with
  | .frameRead        => isFrame 0 w
  | .frameReadMemory  => isFrame 1 w
  | .frameWrite       => isFrame 2 w
  | .frameWriteMemory => isFrame 3 w
  | .runCommand       => hasBits 0xFFFFFBFF 0x00000010 w
  | .readCommand      => hasBits 0xFFFFFBFF 0x00000090 w
  | .writeCommand     => hasBits 0xFFFFFBFF 0x00002090 w
  | .writeCommandLen0 => hasBits 0xFFFFFBFF 0x00000090 w
  | .eraseCommand     => hasBits 0xFFFFFBFF 0x00000030 w
  | .readMemory       => hasBits 0xFFE0FBFF 0x000010B2 w
  | .writeMemory      => hasBits 0xFFFFFBFF 0x000030B2 w
  | .wrInstrctrl      => decide (w = p.regAddr .instrctrl)
  | .wrInstraddr      => decide (w = p.regAddr .instraddr)
  | .wrInstrframe     => decide (w = p.regAddr .instrframe)
  | .rdInstrframe     => decide (w = p.regAddr .instrframe)
  | .winRd            => p.inWindow w
  | .winWr            => p.inWindow w
  | .start            => decide (w = p.regAddr .ctrla)
  | .rdIntflag        => decide (w = p.regAddr .intflag)
  | .clrIntflag       => decide (w = p.regAddr .intflag)
  | .cacheDisable     => decide (w = p.regAddr .cmccCtrl)
  | .cacheEnable      => decide (w = p.regAddr .cmccCtrl)
  | .rdCmccSr         => decide (w = p.regAddr .cmccSr)
  | .cacheInvalidate  => decide (w = p.regAddr .cmccMaint0)
  | .dsb | .isb | .complete | .cacheSettle | .encode | .exec | .submit | .setclk => decide (w = 0)

/-- The template rows that classify a frame word; two of them can share one word (R67 (2)). -/
def classifyTemplates (p : Params) (w : Word) : List Row := Row.templates.filter (fun r => r.matchesWord p w)

/-! ## Operand bytes -/

/-- A word's bytes, the least significant first (Log 10). -/
def wordBytes (w : Word) : List Byte :=
  [w.extractLsb' 0 8, w.extractLsb' 8 8, w.extractLsb' 16 8, w.extractLsb' 24 8]

/-- The word of four bytes, the least significant first (Log 10). -/
def wordOfBytes (b0 b1 b2 b3 : Byte) : Word := b3 ++ b2 ++ b1 ++ b0

/-- Read an operand, then go on with the bytes after it. -/
def chain {α β : Type} (r : Except Reject (α × List Byte)) (k : α → List Byte → Except Reject β) : Except Reject β :=
  match r with
  | .ok (a, bs) => k a bs
  | .error e    => .error e

/-- One operand byte. -/
def takeByte : List Byte → Except Reject (Byte × List Byte)
  | b :: rest => .ok (b, rest)
  | []        => .error .truncated

/-- A Bool operand: the byte 0 or 1. -/
def takeBool (bs : List Byte) : Except Reject (Bool × List Byte) :=
  match bs with
  | b :: rest => if b = 0 then .ok (false, rest) else if b = 1 then .ok (true, rest) else .error .badField
  | []        => .error .truncated

/-- A word operand: four bytes. -/
def takeWord : List Byte → Except Reject (Word × List Byte)
  | b0 :: b1 :: b2 :: b3 :: rest => .ok (wordOfBytes b0 b1 b2 b3, rest)
  | _                            => .error .truncated

/-- `n` bytes. -/
def takeBytes (n : Nat) (bs : List Byte) : Except Reject (List Byte × List Byte) :=
  if n ≤ bs.length then .ok (bs.take n, bs.drop n) else .error .truncated

/-- A natural number operand: seven bits a byte, the lowest first, bit 7 set in every byte but the last (Log 8). -/
def takeNat : List Byte → Except Reject (Nat × List Byte)
  | []      => .error .truncated
  | b :: bs =>
    if b.toNat < 128 then .ok (b.toNat, bs)
    else chain (takeNat bs) fun high bs => .ok (high * 128 + (b.toNat - 128), bs)

/-- An `ioWidth` operand: its code (R54); 7 is no member. -/
def takeWidth (bs : List Byte) : Except Reject (IoWidth × List Byte) :=
  match bs with
  | b :: rest =>
    match [IoWidth.single, .dual, .quad, .dualIO, .quadIO, .dualCmd, .quadCmd].find? (fun x => x.code.setWidth 8 == b) with
    | some x => .ok (x, rest)
    | none   => .error .badField
  | [] => .error .truncated

/-- A `transferDirection` operand: its code (R55). -/
def takeDirection (bs : List Byte) : Except Reject (Direction × List Byte) :=
  match bs with
  | b :: rest =>
    match [Direction.read, .readMemory, .write, .writeMemory].find? (fun x => x.code.setWidth 8 == b) with
    | some x => .ok (x, rest)
    | none   => .error .badField
  | [] => .error .truncated

/-- A role's code (Log 8). -/
def Role.code : Role → Byte
  | .noBuffer => 0
  | .tx       => 1
  | .rx       => 2

/-- A buffer role operand (R66). -/
def takeRole (bs : List Byte) : Except Reject (Role × List Byte) :=
  match bs with
  | b :: rest =>
    match [Role.noBuffer, .tx, .rx].find? (fun x => x.code == b) with
    | some x => .ok (x, rest)
    | none   => .error .badField
  | [] => .error .truncated

/-- A descriptor operand (R64). -/
def takeDescriptor (bs : List Byte) : Except Reject (Descriptor × List Byte) :=
  chain (takeByte bs) fun opcode bs =>
  chain (takeBool bs) fun hasAddress bs =>
  chain (takeBool bs) fun hasData bs =>
  chain (takeNat bs) fun dummyCycles bs =>
  chain (takeWidth bs) fun ioWidth bs =>
  chain (takeDirection bs) fun direction bs =>
  .ok ({ opcode, hasAddress, hasData, dummyCycles, ioWidth, direction }, bs)

/-- A request operand (R65); the buffer's own count stands beside `length`, which may differ from it (R73, WF5). -/
def takeRequest (bs : List Byte) : Except Reject (Request × List Byte) :=
  chain (takeDescriptor bs) fun instruction bs =>
  chain (takeWord bs) fun address bs =>
  chain (takeRole bs) fun role bs =>
  chain (takeNat bs) fun n bs =>
  chain (takeBytes n bs) fun buffer bs =>
  chain (takeWord bs) fun length bs =>
  chain (takeBool bs) fun optOut bs =>
  .ok ({ instruction, address, role, buffer, length, optOut }, bs)

/-! ## Instructions -/

/-- The operands of a row whose word is `w`. -/
def takeOperands (p : Params) (r : Row) (w : Word) (bs : List Byte) : Except Reject (Instr × List Byte) :=
  match r with
  | .frameRead        => .ok (.frameRead (frameFields w), bs)
  | .frameReadMemory  => .ok (.frameReadMemory (frameFields w), bs)
  | .frameWrite       => .ok (.frameWrite (frameFields w), bs)
  | .frameWriteMemory => .ok (.frameWriteMemory (frameFields w), bs)
  | .runCommand =>
    chain (takeByte bs) fun op bs =>
    chain (takeBool bs) fun nocache bs =>
    .ok (.runCommand op nocache, bs)
  | .readCommand =>
    chain (takeByte bs) fun op bs =>
    chain (takeWord bs) fun len bs =>
    chain (takeBool bs) fun nocache bs =>
    .ok (.readCommand op len nocache, bs)
  | .writeCommand =>
    chain (takeByte bs) fun op bs =>
    chain (takeWord bs) fun nLess1 bs =>
    chain (takeBytes (nLess1.toNat + 1) bs) fun bytes bs =>
    chain (takeBool bs) fun nocache bs =>
    .ok (.writeCommand op bytes nocache, bs)
  | .writeCommandLen0 =>
    chain (takeByte bs) fun op bs =>
    chain (takeBool bs) fun nocache bs =>
    .ok (.writeCommandLen0 op nocache, bs)
  | .eraseCommand =>
    chain (takeByte bs) fun op bs =>
    chain (takeWord bs) fun address bs =>
    chain (takeBool bs) fun nocache bs =>
    .ok (.eraseCommand op address nocache, bs)
  | .readMemory =>
    chain (takeWord bs) fun address bs =>
    chain (takeWord bs) fun len bs =>
    chain (takeBool bs) fun nocache bs =>
    .ok (.readMemory address len nocache, bs)
  | .writeMemory =>
    chain (takeWord bs) fun address bs =>
    chain (takeWord bs) fun n bs =>
    chain (takeBytes n.toNat bs) fun bytes bs =>
    chain (takeBool bs) fun nocache bs =>
    .ok (.writeMemory address bytes nocache, bs)
  | .wrInstrctrl =>
    chain (takeWord bs) fun v bs =>
    if v.extractLsb' 8 24 = 0 then .ok (.wrInstrctrl (v.extractLsb' 0 8), bs) else .error .badField
  | .wrInstraddr =>
    chain (takeWord bs) fun v bs =>
    .ok (.wrInstraddr v, bs)
  | .wrInstrframe =>
    chain (takeWord bs) fun v bs =>
    .ok (.wrInstrframe v, bs)
  | .rdInstrframe => .ok (.rdInstrframe, bs)
  | .winRd => .ok (.winRd (w - p.windowBase), bs)
  | .winWr =>
    chain (takeByte bs) fun v bs =>
    .ok (.winWr (w - p.windowBase) v, bs)
  | .start           => .ok (.start, bs)
  | .rdIntflag       => .ok (.rdIntflag, bs)
  | .clrIntflag      => .ok (.clrIntflag, bs)
  | .cacheDisable    => .ok (.cacheDisable, bs)
  | .cacheEnable     => .ok (.cacheEnable, bs)
  | .rdCmccSr        => .ok (.rdCmccSr, bs)
  | .cacheInvalidate => .ok (.cacheInvalidate, bs)
  | .dsb             => .ok (.dsb, bs)
  | .isb             => .ok (.isb, bs)
  | .complete        => .ok (.complete, bs)
  | .cacheSettle     => .ok (.cacheSettle, bs)
  | .encode =>
    chain (takeDescriptor bs) fun d bs =>
    chain (takeBool bs) fun txPresent bs =>
    chain (takeWord bs) fun length bs =>
    .ok (.encode d txPresent length, bs)
  | .exec => .ok (.exec, bs)
  | .submit =>
    chain (takeRequest bs) fun r bs =>
    .ok (.submit r, bs)
  | .setclk =>
    chain (takeNat bs) fun hz bs =>
    .ok (.setclk hz, bs)

/-- What the bytes at the head of the script are: an instruction, an access of a foreign agent (R140), or nothing, by name.
The bytes after it are the rest of the script. -/
inductive Fetched where
  | instr (i : Instr) (rest : List Byte)
  | foreign (a : Access) (rest : List Byte)
  | reject (why : Reject)
deriving DecidableEq, Repr

/-- The row of a word and a row number: number 0 leaves it to the word (Log 9). -/
def rowOf (p : Params) (w : Word) (number : Byte) : Except Reject Row :=
  if number = 0 then
    match Row.byWord.find? (fun r => r.matchesWord p w) with
    | some r => .ok r
    | none   => .error .wordMismatch
  else
    match Row.ofNumber number with
    | some r => if r.matchesWord p w then .ok r else .error .wordMismatch
    | none   => .error .unknownRow

/-- A foreign access: direction, size in bytes, value (R140, Log 28). -/
def takeForeign (w : Word) (bs : List Byte) : Except Reject (Access × List Byte) :=
  chain (takeBool bs) fun write bs =>
  chain (takeByte bs) fun bytes bs =>
  chain (takeWord bs) fun value bs =>
  .ok ({ write, bytes := bytes.toNat, addr := w, value }, bs)

/-- The instruction a word and a row number begin, with its operands checked. -/
def decodeInstr (p : Params) (w : Word) (number : Byte) (bs : List Byte) : Fetched :=
  match rowOf p w number with
  | .error e => .reject e
  | .ok r =>
    match takeOperands p r w bs with
    | .error e => .reject e
    | .ok (i, rest) => if i.wellFormed p then .instr i rest else .reject .illFormed

/-- The decoder: total on any bytes. -/
def decode (p : Params) (bs : List Byte) : Fetched :=
  match bs with
  | b0 :: b1 :: b2 :: b3 :: number :: rest =>
    let w := wordOfBytes b0 b1 b2 b3
    if number = 0xFF then
      match takeForeign w rest with
      | .error e => .reject e
      | .ok (a, rest) => .foreign a rest
    else decodeInstr p w number rest
  | _ => .reject .truncated

/-! ## The encoder -/

/-- The `ADDRLEN` bit of a template's word (R80, R123). -/
def addrLenWord (a : AddrLen) : Word := if a.bit then 0x00000400 else 0

/-- The table word of an instruction: a frame's word, a template's frame word under the parameters (R123-R130), the address
an access goes to (R88-R104), 0 for an operation that accesses no address (R67 (4)). -/
def Instr.tableWord (p : Params) : Instr → Word
  | .frameRead f          => frameWord 0 f
  | .frameReadMemory f    => frameWord 1 f
  | .frameWrite f         => frameWord 2 f
  | .frameWriteMemory f   => frameWord 3 f
  | .runCommand _ _       => 0x00000010 ||| addrLenWord p.addrLen
  | .readCommand _ _ _    => 0x00000090 ||| addrLenWord p.addrLen
  | .writeCommand _ _ _   => 0x00002090 ||| addrLenWord p.addrLen
  | .writeCommandLen0 _ _ => 0x00000090 ||| addrLenWord p.addrLen
  | .eraseCommand _ _ _   => 0x00000030 ||| addrLenWord p.addrLen
  | .readMemory _ _ _     => 0x000010B2 ||| addrLenWord p.addrLen ||| (p.qreadDummy.setWidth 32 <<< 16)
  | .writeMemory _ _ _    => 0x000030B2 ||| addrLenWord p.addrLen
  | .wrInstrctrl _        => p.regAddr .instrctrl
  | .wrInstraddr _        => p.regAddr .instraddr
  | .wrInstrframe _       => p.regAddr .instrframe
  | .rdInstrframe         => p.regAddr .instrframe
  | .winRd o              => p.windowBase + o
  | .winWr o _            => p.windowBase + o
  | .start                => p.regAddr .ctrla
  | .rdIntflag            => p.regAddr .intflag
  | .clrIntflag           => p.regAddr .intflag
  | .cacheDisable         => p.regAddr .cmccCtrl
  | .cacheEnable          => p.regAddr .cmccCtrl
  | .rdCmccSr             => p.regAddr .cmccSr
  | .cacheInvalidate      => p.regAddr .cmccMaint0
  | .dsb | .isb | .complete | .cacheSettle | .encode _ _ _ | .exec | .submit _ | .setclk _ => 0

/-- A Bool operand's byte. -/
def boolByte (b : Bool) : Byte := if b then 1 else 0

/-- The bytes of a natural number below `128 ^ (fuel + 1)` (Log 8). -/
def natBytesUpTo : Nat → Nat → List Byte
  | 0, n        => [BitVec.ofNat 8 n]
  | fuel + 1, n =>
    if n < 128 then [BitVec.ofNat 8 n] else BitVec.ofNat 8 (n % 128 + 128) :: natBytesUpTo fuel (n / 128)

/-- A natural number operand's bytes; a number has fewer base-128 digits than bits. -/
def natBytes (n : Nat) : List Byte := natBytesUpTo n.log2 n

/-- A descriptor operand's bytes. -/
def Descriptor.bytes (d : Descriptor) : List Byte :=
  [d.opcode, boolByte d.hasAddress, boolByte d.hasData] ++ natBytes d.dummyCycles
    ++ [d.ioWidth.code.setWidth 8, d.direction.code.setWidth 8]

/-- A request operand's bytes. -/
def Request.bytes (r : Request) : List Byte :=
  r.instruction.bytes ++ wordBytes r.address ++ [r.role.code] ++ natBytes r.buffer.length
    ++ r.buffer ++ wordBytes r.length ++ [boolByte r.optOut]

/-- An instruction's operand bytes. -/
def Instr.operandBytes : Instr → List Byte
  | .frameRead _ | .frameReadMemory _ | .frameWrite _ | .frameWriteMemory _ => []
  | .runCommand op nocache         => [op, boolByte nocache]
  | .readCommand op len nocache    => [op] ++ wordBytes len ++ [boolByte nocache]
  | .writeCommand op bytes nocache => [op] ++ wordBytes (BitVec.ofNat 32 (bytes.length - 1)) ++ bytes ++ [boolByte nocache]
  | .writeCommandLen0 op nocache   => [op, boolByte nocache]
  | .eraseCommand op a nocache     => [op] ++ wordBytes a ++ [boolByte nocache]
  | .readMemory a len nocache      => wordBytes a ++ wordBytes len ++ [boolByte nocache]
  | .writeMemory a bytes nocache   => wordBytes a ++ wordBytes (BitVec.ofNat 32 bytes.length) ++ bytes ++ [boolByte nocache]
  | .wrInstrctrl op  => wordBytes (op.setWidth 32)
  | .wrInstraddr a   => wordBytes a
  | .wrInstrframe w  => wordBytes w
  | .winWr _ v       => [v]
  | .rdInstrframe | .winRd _ | .start | .rdIntflag | .clrIntflag => []
  | .cacheDisable | .cacheEnable | .rdCmccSr | .cacheInvalidate => []
  | .dsb | .isb | .complete | .cacheSettle | .exec => []
  | .encode d txPresent length => d.bytes ++ [boolByte txPresent] ++ wordBytes length
  | .submit r => r.bytes
  | .setclk hz => natBytes hz

/-- The bytes of an instruction: its table word, its row number, its operands. -/
def encode (p : Params) (i : Instr) : List Byte :=
  wordBytes (i.tableWord p) ++ [i.row.number] ++ i.operandBytes

/-! ## The table's numbering of bits -/

/-- The bytes of a table word of `nbits` bits, the first byte its bits 7..0, and zero operand bytes after it. -/
def tableWordBytes (nbits w : Nat) : List Byte :=
  wordBytes (BitVec.ofNat 32 (w % 2 ^ nbits)) ++ List.replicate 64 0

/-- The instruction the decoder reads from a word of the table, its operand bytes zero, under the default parameters. -/
def decodeTableWord (nbits w : Nat) : Option Instr :=
  match decode Params.default (tableWordBytes nbits w) with
  | .instr i _   => some i
  | .foreign _ _ => none
  | .reject _    => none

end Sys2Proof
end

