-- ==== Sys2Proof/Machine/State.lean ====
section
/-! DEFINITION. The state of the machine, plain data: every piece of state 10_state.md gives the block (R16-R35), the
configuration beside it (R35), the three fields the model adds (script, draws, encOut), and the state after reset
(70_reset_and_hazards.md R149). -/

namespace Sys2Proof

/-- The request a state holds before any was submitted; no rule reads it in `IDLE` (R26, U28). DESIGN CHOICE (Log 5). -/
def Request.blank : Request where
  instruction := { opcode := 0, hasAddress := false, hasData := false, dummyCycles := 0, ioWidth := .single, direction := .read }
  address     := 0
  role        := .noBuffer
  buffer      := []
  length      := 0
  optOut      := false

end Sys2Proof

namespace Sys2Proof.Machine

/-- The executor's step index (R25); `s5 i` moves byte `i`. -/
inductive Pc where
  | idle | check | s1 | s2Dis | s2Poll | s2Inv | s3Op | s3Addr | s3Frame | s4
  | s5 (i : Nat)
  | s6Start | s6Dsb | s6Isb | s6Poll | s6Clr | s7 | ret
deriving DecidableEq, Repr

/-- The controller's record of the pending frame (R29). `next` is a window offset, a natural number (Log 29). -/
structure FrameRecord where
  seq    : Nat
  word   : Word
  opcode : Byte
  addr   : Word
  next   : Nat
  data   : List Byte
deriving DecidableEq, Repr

/-- The twelve fault codes (R138). -/
inductive FaultCode where
  | malformedRequest | reentrantCall | notEnabled | frameOverrun | reservedFieldValue | noFrame
  | unsettledFrame | windowDirection | windowNonSequential | cacheActiveDataPhase | staleCompletionFlag
  | cacheMaintWhileActive
deriving DecidableEq, Repr

/-- The `info` a fault records (R138): a check's name, a request, a clock rate, a register, a word, a window offset. -/
inductive FaultInfo where
  | check (c : Check)
  | request (r : Request)
  | rate (hz : Nat)
  | reg (r : Reg)
  | word (w : Word)
  | offset (o : Nat)
deriving DecidableEq, Repr

/-- A recorded fault: code, info, and the executor's `pc` (R137). -/
structure FaultEntry where
  code : FaultCode
  info : FaultInfo
  pc   : Pc
deriving DecidableEq, Repr

/-- Why a step gives no next state because the machine has stopped. -/
inductive Fault where
  /-- Raised by every step and every instruction from a state with a recorded fault: "After it no agent takes any step"
  (R137). Safe: the spec gives such a state no successor. -/
  | halted (code : FaultCode)
deriving DecidableEq, Repr

/-- Why a step gives an instruction no meaning. -/
inductive Refusal where
  /-- Raised by `exec` for an instruction that has no meaning yet; no arm does. Safe. -/
  | notModelled (mnemonic : String)
  /-- Raised by `step` when the script's bytes are no instruction, with the decoder's reason (Log 8). Safe: the bytes are
  the model's own form, and the machine has no such input. -/
  | undecodable (why : Reject)
deriving DecidableEq, Repr

/-- The state of the machine. -/
structure State where
  /-- the parameters; configuration, changed by no step (R35, Log 2) -/
  cfg : Params
  /-- `CTRLA.ENABLE` (R17) -/
  enable : Bool
  /-- `INTFLAG.INSTREND` (R18) -/
  instrend : Bool
  /-- `INSTRADDR` (R19) -/
  instraddr : Word
  /-- `INSTRCTRL` (R20) -/
  instrctrl : Word
  /-- `INSTRFRAME` (R21) -/
  instrframe : Word
  /-- the settle bit (R28) -/
  settled : Bool
  /-- the one pending frame (R29) -/
  pending : Option FrameRecord
  /-- the pending frame has been started and has not completed (R29) -/
  inflight : Bool
  /-- the number of the next frame (R29) -/
  nextSeq : Nat
  /-- `CMCC_CTRL.CEN` (R22) -/
  cen : Bool
  /-- `CMCC_SR.CSTS` (R23) -/
  csts : Bool
  /-- the window offsets the cache may hold copies of, sorted, no repeats (R30) -/
  lines : List Nat
  /-- the executor's step index (R25) -/
  pc : Pc
  /-- a request is in progress (R26) -/
  busy : Bool
  /-- the latched request (R26) -/
  req : Request
  /-- the frame word of the request (R26) -/
  word : Word
  /-- whether steps 2 and 7 are taken (R26) -/
  bracket : Bool
  /-- the window address of byte 0 (R26) -/
  ptr : Word
  /-- the bytes read so far (R26) -/
  rx : List Byte
  /-- the result of the last request that returned; none before the first (R26, R118) -/
  result : Option Result
  /-- the events so far, oldest first (R31) -/
  history : List Event
  /-- the recorded faults (R34, R137) -/
  faults : List FaultEntry
  /-- the refused mark (R34, R140) -/
  refused : Bool
  /-- the last clock rate (R35) -/
  clockHz : Nat
  /-- the model's own: the encoder's output port, the last word an ENCODE instruction computed (Log 16) -/
  encOut : Word
  /-- the model's own: how many free values have been drawn (Log 19) -/
  draws : Nat
  /-- the model's own: the bytes of the instructions that run next, first one first (Log 1, Log 8) -/
  script : List Byte
deriving DecidableEq, Repr

/-- The state after a reset of the block with parameters `p` (R149). DESIGN CHOICE where R149 gives no value: the executor's
fields (Log 5), the model's own fields (Log 11, Log 16, Log 19). -/
def State.launch (p : Params) : State where
  cfg        := p
  enable     := false
  instrend   := false
  instraddr  := 0
  instrctrl  := 0
  instrframe := 0
  settled    := false
  pending    := none
  inflight   := false
  nextSeq    := 0
  cen        := p.cenAtLaunch
  csts       := p.cenAtLaunch
  lines      := p.linesAtLaunch
  pc         := .idle
  busy       := false
  req        := Request.blank
  word       := 0
  bracket    := false
  ptr        := 0
  rx         := []
  result     := none
  history    := []
  faults     := []
  refused    := false
  clockHz    := p.clockAtLaunch
  encOut     := 0
  draws      := 0
  script     := []

/-- The machine right after reset, with the default parameters of R7. -/
def State.reset : State := State.launch Params.default

end Sys2Proof.Machine
end

