-- ==== Sys2Proof/Machine/Flags.lean ====
section
/-! DEFINITION. The block's status bits (10_state.md R18, R22, R23, R27): how a register word shows them and what writing a
word does to them. -/

namespace Sys2Proof.Machine

/-- The bit of `INSTREND` in `INTFLAG` (R18). -/
def instrendMask : Word := 0x00000400

/-- `INTFLAG` as a read returns it: `INSTREND` in bit 10 and the drawn bits elsewhere (R18, R98). -/
def intflagWord (instrend : Bool) (drawn : Word) : Word :=
  (drawn &&& ~~~instrendMask) ||| (if instrend then instrendMask else 0)

/-- `INSTREND` after a write of `v` to `INTFLAG`: a 1 in bit 10 clears it, a 0 leaves it (R18, R99). -/
def instrendAfterWrite (instrend : Bool) (v : Word) : Bool := instrend && !v.getLsbD 10

/-- `CEN` after a write of `v` to `CMCC_CTRL` (R100). -/
def cenOfWrite (v : Word) : Bool := v.getLsbD 0

/-- A register whose only field is bit 0 (R22, R23). -/
def bit0Word (b : Bool) : Word := if b then 1 else 0

/-- `CTRLA` as a read returns it: `ENABLE` in bit 1, 0 elsewhere (R17, R106). -/
def ctrlaWord (enable : Bool) : Word := if enable then 0x00000002 else 0

/-- The word the start write carries: `ENABLE` and `LASTXFER` (R17, R94). -/
def startWord : Word := 0x01000002

end Sys2Proof.Machine
end

