-- ==== Sys2Proof/Machine/Operands.lean ====
section
/-! DEFINITION. What the rules read: registers as words (41_transport_primitives.md R106), the fields of a pending frame,
window offsets and addresses (R37, R110, R115), the oracles (R33, R97, R98, R105, R118). -/

namespace Sys2Proof

/-- The request's window offset: its address if it has one, else 0 (R38, R110). -/
def Request.off (r : Request) : Word := if r.instruction.hasAddress then r.address else 0

/-- The request's effective type, which fixes the data direction (R81, R86). -/
def Request.effectiveType (r : Request) : BitVec 2 :=
  Sys2Proof.effectiveType r.instruction.direction (r.role == .tx) r.length

/-- The frame word of a request under the parameters: `ENCODE(d, role == TX, length)` (R113). -/
def Request.encoded (p : Params) (r : Request) : Word :=
  encodeFrame p.addrLen r.instruction (r.role == .tx) r.length

/-- A phase of a frame on the bus, with the data lines it uses and what it carries (R53, R56-R59). -/
inductive Phase where
  | instruction (lines : Nat) (opcode : Byte)
  | address (lines bits : Nat) (addr : Word)
  | option (lines bits : Nat) (code : Byte)
  | dummy (cycles : Nat)
  | data (lines : Nat) (dir : Dir) (bytes : List Byte)
deriving DecidableEq, Repr

/-- The phases of a frame in their order: instruction, address, option, dummy cycles, data, each included by its enable bit
and the dummy cycles by their count (R56); none for the reserved `WIDTH`, which no frame has (R61). -/
def FrameEvent.phases (e : FrameEvent) : Option (List Phase) :=
  match widthLines e.width with
  | none => none
  | some (instrLines, addrLines, dataLines) => some (
    (if e.instrEn then [.instruction instrLines e.opcode] else [])
    ++ (if e.addrEn then [.address addrLines e.addrLen.bits e.addr] else [])
    ++ (if e.optEn then [.option addrLines (optCodeBits e.optLen) e.optCode] else [])
    ++ (if e.dummy != 0 then [.dummy e.dummy.toNat] else [])
    ++ (if e.dataEn then [.data dataLines e.dir e.data] else []))

/-- Whether the byte at an address belongs to the block: to one of its registers or to its window (R16, R36, R140). -/
def Params.ownsByte (p : Params) (a : Word) : Bool :=
  p.inWindow a || Reg.all.any (fun r => a &&& 0xFFFFFFFC == p.regAddr r)

/-- Whether any of the access's bytes belongs to the block (R140). -/
def Access.touchesBlock (p : Params) (a : Access) : Bool :=
  (List.range a.bytes).any (fun k => p.ownsByte (a.addr + BitVec.ofNat 32 k))

end Sys2Proof

namespace Sys2Proof.Machine

/-- The value a read of a register returns, the drawn bits of `INTFLAG` given (R16-R24, R106). -/
def State.readReg (s : State) (drawn : Word) (r : Reg) : Word :=
  match r with
  | .ctrla      => ctrlaWord s.enable
  | .intflag    => intflagWord s.instrend drawn
  | .instraddr  => s.instraddr
  | .instrctrl  => s.instrctrl
  | .instrframe => s.instrframe
  | .cmccCtrl   => bit0Word s.cen
  | .cmccSr     => bit0Word s.csts
  | .cmccMaint0 => 0

/-- `INSTRCTRL.INSTR` (R20). -/
def State.instrByte (s : State) : Byte := s.instrctrl.extractLsb' 0 8

/-- `INSTRCTRL.OPTCODE` (R20). -/
def State.optCode (s : State) : Byte := s.instrctrl.extractLsb' 16 8

/-- A frame word's `ADDREN` (R52). -/
def addrEn (w : Word) : Bool := w.getLsbD 5

/-- A frame word's `DATAEN` (R52). -/
def dataEn (w : Word) : Bool := w.getLsbD 7

/-- A frame word's write bit, `TFRTYPE[1]` (R55, R86). -/
def writeBit (w : Word) : Bool := w.getLsbD 13

/-- The direction of a frame's data phase (R32, R94). -/
def frameDir (w : Word) : Dir :=
  if !dataEn w then .noData else if writeBit w then .dirOut else .dirIn

/-- The event of performing a pending frame; `optCode` is `INSTRCTRL[23:16]` (R32, R94). -/
def frameEventOf (p : FrameRecord) (optCode : Byte) : FrameEvent :=
  let f := frameFields p.word
  { seq := p.seq, opcode := p.opcode, width := f.width, instrEn := f.instrEn, addrEn := f.addrEn, optEn := f.optEn,
    dataEn := f.dataEn, crMode := f.crMode, ddrEn := f.ddrEn, addrLen := f.addrLen,
    addr := if f.addrEn then f.addrLen.low p.addr else 0,
    optLen := f.optLen, optCode, tfrType := tfrType p.word, dummy := f.dummy, dir := frameDir p.word, data := p.data }

/-- The window offset at which a frame's data begins, under `P_ADDR_LEN` (R90 `o0`). -/
def State.firstOffset (s : State) (w : Word) : Nat :=
  if addrEn w then (s.cfg.addrLen.low s.instraddr).toNat else 0

/-- A frame is pending or in flight (R88-R90). -/
def State.frameHeld (s : State) : Bool := s.inflight || s.pending.isSome

/-- The window offset of byte `i` of the copy: `ptr + i - P_WINDOW_BASE` (R115). -/
def State.copyOffset (s : State) (i : Nat) : Nat := (s.ptr - s.cfg.windowBase).toNat + i

/-- The address written at `S3_ADDR` (R113): 0 without an address phase. -/
def State.programmedAddress (s : State) : Word := s.req.off

/-- The frame word of the request in progress (R113). -/
def State.requestWord (s : State) : Word := s.req.encoded s.cfg

/-- Byte `i` of the request's buffer (R115); past its end, which WF5 makes unreachable, a free value (Log 26). -/
def State.bufferByte (s : State) (i : Nat) : Byte := (s.req.buffer[i]?).getD (Config.absentByte i)

/-- `FlashRead(history, seq, k)` (R33): the table's answer, else the free value. -/
def State.flashByte (s : State) (seq k : Nat) : Byte :=
  (s.cfg.oracle.flash.lookup (seq, k)).getD (Config.flashRead s.history seq k)

/-- `Wedge.frame(seq)` (R97). -/
def State.frameWedged (s : State) (seq : Nat) : Bool :=
  (s.cfg.oracle.wedgeFrame.lookup seq).getD (Config.wedgeFrame seq)

/-- `Wedge.cache(n)` (R105). -/
def State.cacheWedged (s : State) (n : Nat) : Bool :=
  (s.cfg.oracle.wedgeCache.lookup n).getD (Config.wedgeCache n)

/-- The bits drawn at a read of `INTFLAG` (R98). -/
def State.drawnBits (s : State) : Word :=
  (s.cfg.oracle.intflag.lookup s.draws).getD (Config.intflagBits s.draws)

/-- Whether the draw at `RET` gives `FAIL` (R118). -/
def State.drawnFail (s : State) : Bool :=
  (s.cfg.oracle.fail.lookup s.draws).getD (Config.drawFail s.draws)

/-- The agent that steps next where no script fixes it (R157, Log 22). -/
def State.drawnAgent (s : State) : Agent :=
  (s.cfg.oracle.agent.lookup s.draws).getD (Config.nextAgent s.draws)

/-- The number of disables in the history before the latest one (R105; 0 where there is none, Log 27). -/
def State.disableIndex (s : State) : Nat := s.history.count (.regWrite .cmccCtrl 0) - 1

end Sys2Proof.Machine
end

