-- ==== Sys2Proof/Machine/Ops.lean ====
section
/-! DEFINITION. The operations every meaning is made of: appending an event (10_state.md R31), raising a fault, the one way
the block records one (60_exceptions.md R137), the guard that no agent steps after a fault (R137), the executor's advance to
the next row of its step table (R25), and an access by a foreign agent (R140). The block has no trap entry and no trap return
(R141, R142). -/

namespace Sys2Proof.Machine

/-- Append an event to the history (R31). -/
def State.log (s : State) (e : Event) : State := { s with history := s.history ++ [e] }

/-- `raise Fault(code, info)`: record the code and info together with the executor's `pc`; no other effect (R137). -/
def State.raise (s : State) (code : FaultCode) (info : FaultInfo) : State :=
  { s with faults := s.faults ++ [⟨code, info, s.pc⟩] }

/-- The fault that stops every agent: the first one recorded (R137). -/
def State.haltedBy (s : State) : Option FaultCode := s.faults.head?.map (·.code)

/-- One step of an agent: `effect` where no fault is recorded; after a fault no agent takes any step (R137). -/
def State.whenLive (s : State) (effect : State → State) : Host.Outcome State Fault Refusal :=
  match s.haltedBy with
  | none      => .next (effect s)
  | some code => .fault (.halted code)

/-- The row after the current one in the executor's step table (R25, R110, R114-R116). -/
def State.nextPc (s : State) : Pc :=
  match s.pc with
  | .idle    => .check
  | .check   => .s1
  | .s1      => if s.bracket then .s2Dis else .s3Op
  | .s2Dis   => .s2Poll
  | .s2Poll  => .s2Inv
  | .s2Inv   => .s3Op
  | .s3Op    => .s3Addr
  | .s3Addr  => .s3Frame
  | .s3Frame => .s4
  | .s4      => if 0 < s.req.length.toNat then .s5 0 else .s6Start
  | .s5 i    => if i + 1 < s.req.length.toNat then .s5 (i + 1) else .s6Start
  | .s6Start => .s6Dsb
  | .s6Dsb   => .s6Isb
  | .s6Isb   => .s6Poll
  | .s6Poll  => .s6Clr
  | .s6Clr   => if s.bracket then .s7 else .ret
  | .s7      => .ret
  | .ret     => .idle

/-- The executor is at a window access, `S5(i)` (R25). -/
def State.atCopy (s : State) : Bool :=
  match s.pc with
  | .s5 _ => true
  | _     => false

/-- Go to the next row of the step table (R25). -/
def State.stepPc (s : State) : State := { s with pc := s.nextPc }

/-- A primitive issued at its own row of the step table advances `pc` (R87); applied with no request in progress it has no
row, and `pc` stays (Log 13). -/
def State.advanceAt (s : State) (row : Pc) : State := if s.pc = row then s.stepPc else s

/-- The executor's side of the frame write at `S3_FRAME`: the word becomes the request's frame word (R113). -/
def State.keepWord (s : State) (w : Word) : State :=
  if s.pc = .s3Frame then { s with word := w }.stepPc else s

/-- The executor's side of a window access at `S5(i)`: received bytes are kept, and the copy goes on (R115). -/
def State.copied (s : State) (received : List Byte) : State :=
  match s.pc with
  | .s5 _ => { s with rx := s.rx ++ received }.stepPc
  | _     => s

/-- Whether an access is the one the executor makes at its `pc`, with the operand of the request in progress (R111, R113-R117);
the start write performs the request's frame and no other (R94, R121). Barriers, agents' own steps and the caller's are no
accesses. -/
def State.issues (s : State) (i : Instr) : Bool :=
  match i with
  | .frameRead f        => s.pc == .s6Start && frameWord 0 f == s.requestWord
  | .frameReadMemory f  => s.pc == .s6Start && frameWord 1 f == s.requestWord
  | .frameWrite f       => s.pc == .s6Start && frameWord 2 f == s.requestWord
  | .frameWriteMemory f => s.pc == .s6Start && frameWord 3 f == s.requestWord
  | .start              => s.pc == .s6Start
  | .wrInstrctrl op  => s.pc == .s3Op && op == s.req.instruction.opcode
  | .wrInstraddr a   => s.pc == .s3Addr && a == s.programmedAddress
  | .wrInstrframe w  => s.pc == .s3Frame && w == s.requestWord
  | .rdInstrframe    => s.pc == .s4
  | .winRd o =>
    match s.pc with
    | .s5 n => !writeBit s.word && o.toNat == s.copyOffset n
    | _     => false
  | .winWr o v =>
    match s.pc with
    | .s5 n => writeBit s.word && o.toNat == s.copyOffset n && s.req.buffer[n]? == some v
    | _     => false
  | .rdIntflag       => s.pc == .s6Poll
  | .clrIntflag      => s.pc == .s6Clr
  | .cacheDisable    => s.pc == .s2Dis
  | .cacheEnable     => s.pc == .s7
  | .rdCmccSr        => s.pc == .s2Poll
  | .cacheInvalidate => s.pc == .s2Inv
  | .dsb | .isb | .complete | .cacheSettle | .encode _ _ _ | .exec | .submit _ | .setclk _ => false
  | .runCommand _ _ | .readCommand _ _ _ | .writeCommand _ _ _ | .writeCommandLen0 _ _ | .eraseCommand _ _ _
  | .readMemory _ _ _ | .writeMemory _ _ _ => false

/-- An access to the block's registers or window. While a request is in progress the executor is the only agent that makes
one, in the order of its `pc` and with the request's operands (R45, R113, R121); any other, out of its row or with an operand the
executor never issues, sets the refused mark with no other effect (R140, Log 13). With no request in progress it is the
primitive alone, as the V vectors of 95_test_vectors.md apply it (Log 13). -/
def State.access (s : State) (own : Bool) (effect : State → State) : State :=
  if s.busy && !own then { s with refused := true } else effect s

/-- Count a free value as drawn. -/
def State.drew (s : State) : State := { s with draws := s.draws + 1 }

/-- An access by an agent other than the executor: of the block's registers or window, it sets the refused mark and has no
other meaning (R140); elsewhere it is the platform's and touches nothing of the block (R43, Log 28). -/
def State.foreignAccess (s : State) (a : Access) : State :=
  if a.touchesBlock s.cfg then { s with refused := true } else s

/-- Platform bring-up leaves the controller enabled (R150). It is no step of the block; it makes launch states (Log 30). -/
def State.bringUp (s : State) : State := { s with enable := true }

end Sys2Proof.Machine
end

