-- ==== Sys2Proof/Machine/Cache.lean ====
section
/-! DEFINITION. The cache controller: writes of CMCC_CTRL, the poll of CMCC_SR, the invalidate, and the cache's own status
step (41_transport_primitives.md R100-R105). -/

namespace Sys2Proof.Machine

/-- A write of `CMCC_CTRL` (R100): `CEN <- v[0]`. -/
def State.writeCmccCtrl (s : State) (v : Word) : State :=
  { s with cen := cenOfWrite v }.log (.regWrite .cmccCtrl v)

/-- disable-cache (R101). -/
def State.disableCache (s : State) : State := (s.writeCmccCtrl 0).advanceAt .s2Dis

/-- enable-cache (R104). -/
def State.enableCache (s : State) : State := (s.writeCmccCtrl 1).advanceAt .s7

/-- poll-cache-clean (R102): a read taken once `CSTS` = 0; until then the executor holds and nothing changes (R87, Log 17). -/
def State.pollClean (s : State) : State :=
  if s.csts then s else (s.log (.regRead .cmccSr (bit0Word s.csts))).advanceAt .s2Poll

/-- invalidate-cache (R103). -/
def State.invalidateCache (s : State) : State :=
  if s.csts then s.raise .cacheMaintWhileActive (.reg .cmccMaint0)
  else ({ s with lines := [] }.log .cacheInvalidate).advanceAt .s2Inv

/-- The cache's status step is enabled (R105): `CSTS` differs from `CEN`, and a change from 1 to 0 is not wedged. -/
def State.settleEnabled (s : State) : Bool :=
  s.csts != s.cen && !(s.csts && s.cacheWedged s.disableIndex)

/-- cache status change (R105), the cache's own step; where it is not enabled the cache takes no step (Log 17). -/
def State.settleCache (s : State) : State :=
  if s.settleEnabled then { s with csts := s.cen }.log (.cacheStatus s.cen) else s

/-- CACHE_DISABLE (R101). -/
def execCacheDisable (s : State) : Host.Outcome State Fault Refusal :=
  s.whenLive (fun s => s.access (s.issues .cacheDisable) (·.disableCache))

/-- CACHE_ENABLE (R104). -/
def execCacheEnable (s : State) : Host.Outcome State Fault Refusal :=
  s.whenLive (fun s => s.access (s.issues .cacheEnable) (·.enableCache))

/-- RD_CMCC_SR (R102). -/
def execRdCmccSr (s : State) : Host.Outcome State Fault Refusal :=
  s.whenLive (fun s => s.access (s.issues .rdCmccSr) (·.pollClean))

/-- CACHE_INVALIDATE (R103). -/
def execCacheInvalidate (s : State) : Host.Outcome State Fault Refusal :=
  s.whenLive (fun s => s.access (s.issues .cacheInvalidate) (·.invalidateCache))

/-- CACHE_SETTLE (R105). -/
def execCacheSettle (s : State) : Host.Outcome State Fault Refusal := s.whenLive (·.settleCache)

end Sys2Proof.Machine
end

