-- ==== Sys2Proof/Machine/Checks.lean ====
section
/-! DEFINITION. The nine well-formedness checks of a request, in their order (40_frame_encoder.md R73). -/

namespace Sys2Proof

/-- Whether a check holds of a request (R73). WF1 and WF3 hold by type. -/
def Request.passes (p : Params) (r : Request) (c : Check) : Bool :=
  let d := r.instruction
  match c with
  | .wf1 => d.opcode.toNat < 256
  | .wf2 => d.dummyCycles ≤ 31
  | .wf3 => d.ioWidth.code != 7
  | .wf4 => d.hasData || r.length == 0
  | .wf5 => if r.role = .noBuffer then r.length == 0 && r.buffer.isEmpty else r.buffer.length == r.length.toNat
  | .wf6 => !d.hasAddress || r.address.toNat < 2 ^ p.addrLen.bits
  | .wf7 => r.off.toNat + r.length.toNat ≤ p.windowSize
  | .wf8 => r.length == 0 || r.effectiveType.getLsbD 1 == (r.role == .tx)
  | .wf9 => d.hasAddress || !(d.direction == .readMemory || d.direction == .writeMemory)

/-- The checks in the order they are evaluated (R73, R139). -/
def Check.inOrder : List Check := [.wf1, .wf2, .wf3, .wf4, .wf5, .wf6, .wf7, .wf8, .wf9]

/-- The first check a request fails (R73, R109). -/
def Request.firstFailing (p : Params) (r : Request) : Option Check :=
  Check.inOrder.find? (fun c => !r.passes p c)

/-- All nine checks hold (R73). -/
def Request.wellFormed (p : Params) (r : Request) : Bool := Check.inOrder.all (r.passes p)

end Sys2Proof
end

