-- ==== Sys2Proof/Machine/Control.lean ====
section
/-! DEFINITION. The two barriers (41_transport_primitives.md R95, R96), the encoder as an operation (40_frame_encoder.md R72,
R74) and the clock rate (42_transport_executor.md R122). -/

namespace Sys2Proof.Machine

/-- A barrier appends its event and changes no other state (R47, R95, R96); `row` is its step. -/
def State.barrier (s : State) (k : Barrier) (row : Pc) : State := (s.log (.barrier k)).advanceAt row

/-- `ENCODE` as an operation: its word appears at the encoder's output port; it reads and writes none of the block's state
(R72, Log 16). -/
def State.encodeOut (s : State) (d : Descriptor) (txPresent : Bool) (length : Word) : State :=
  { s with encOut := encodeFrame s.cfg.addrLen d txPresent length }

/-- `SETCLK(hz)` (R122). -/
def State.setClock (s : State) (hz : Nat) : State :=
  if s.busy then s.raise .reentrantCall (.rate hz) else { s with clockHz := hz }

/-- DSB (R95). -/
def execDsb (s : State) : Host.Outcome State Fault Refusal := s.whenLive (·.barrier .dsb .s6Dsb)

/-- ISB (R96). -/
def execIsb (s : State) : Host.Outcome State Fault Refusal := s.whenLive (·.barrier .isb .s6Isb)

/-- ENCODE (R72, R74). -/
def execEncode (d : Descriptor) (txPresent : Bool) (length : Word) (s : State) : Host.Outcome State Fault Refusal :=
  s.whenLive (·.encodeOut d txPresent length)

/-- SETCLK (R122). -/
def execSetclk (hz : Nat) (s : State) : Host.Outcome State Fault Refusal := s.whenLive (·.setClock hz)

end Sys2Proof.Machine
end

