-- ==== Sys2Proof/Machine/Frames.lean ====
section
/-! DEFINITION. Performing the pending frame: the start write, the four frame kinds it performs, and the controller's
completion step (41_transport_primitives.md R94, R97). -/

namespace Sys2Proof.Machine

/-- The first check of the start write that fails (R94, R139). -/
def State.startFault (s : State) : Option FaultCode :=
  if s.pending.isNone || s.inflight then some .noFrame
  else if !s.settled then some .unsettledFrame
  else if s.instrend then some .staleCompletionFlag
  else none

/-- The controller performs the frame `p` (R94): the frame event, then the register write. -/
def State.performFrame (s : State) (p : FrameRecord) : State :=
  (({ s with enable := true, inflight := true }.log (.frame (frameEventOf p s.optCode))).log
    (.regWrite .ctrla startWord)).advanceAt .s6Start

/-- start-transfer (R94): `W32 CTRLA, 0x0100_0002`. -/
def State.startTransfer (s : State) : State :=
  match s.startFault, s.pending with
  | some code, _   => s.raise code (.reg .ctrla)
  | none, some p   => s.performFrame p
  | none, none     => s.raise .noFrame (.reg .ctrla)

/-- A frame instruction: the controller performs the pending frame whose word this is; where no such frame is pending there
is no frame to perform (R94, R67 (1), Log 14). -/
def State.performWord (s : State) (w : Word) : State :=
  if s.pending.map (·.word) = some w then s.startTransfer else s.raise .noFrame (.reg .ctrla)

/-- frame completion (R97), the controller's own step; where it is not enabled the controller takes no step (Log 17). -/
def State.completeFrame (s : State) : State :=
  match s.pending with
  | some p =>
    if s.inflight && !s.frameWedged p.seq then
      { s with instrend := true, inflight := false, pending := none }.log (.complete p.seq)
    else s
  | none => s

/-- READ (R94, R55). -/
def execFrameRead (f : FrameFields) (s : State) : Host.Outcome State Fault Refusal :=
  s.whenLive (fun s => s.access (s.issues (.frameRead f)) (·.performWord (frameWord 0 f)))

/-- READMEMORY (R94, R55). -/
def execFrameReadMemory (f : FrameFields) (s : State) : Host.Outcome State Fault Refusal :=
  s.whenLive (fun s => s.access (s.issues (.frameReadMemory f)) (·.performWord (frameWord 1 f)))

/-- WRITE (R94, R55). -/
def execFrameWrite (f : FrameFields) (s : State) : Host.Outcome State Fault Refusal :=
  s.whenLive (fun s => s.access (s.issues (.frameWrite f)) (·.performWord (frameWord 2 f)))

/-- WRITEMEMORY (R94, R55). -/
def execFrameWriteMemory (f : FrameFields) (s : State) : Host.Outcome State Fault Refusal :=
  s.whenLive (fun s => s.access (s.issues (.frameWriteMemory f)) (·.performWord (frameWord 3 f)))

/-- START (R94). -/
def execStart (s : State) : Host.Outcome State Fault Refusal :=
  s.whenLive (fun s => s.access (s.issues .start) (·.startTransfer))

/-- COMPLETE (R97). -/
def execComplete (s : State) : Host.Outcome State Fault Refusal := s.whenLive (·.completeFrame)

end Sys2Proof.Machine
end

