-- ==== Sys2Proof/Machine/Registers.lean ====
section
/-! DEFINITION. The controller's register primitives: program-opcode, program-address, program-frame, settle read-back, and
the completion flag's poll and clear (41_transport_primitives.md R88-R91, R98, R99). -/

namespace Sys2Proof.Machine

/-- program-opcode (R88): `W32 INSTRCTRL, zext_32(op)`. -/
def State.programOpcode (s : State) (op : Byte) : State :=
  if s.frameHeld then s.raise .frameOverrun (.reg .instrctrl)
  else ({ s with instrctrl := op.setWidth 32 }.log (.regWrite .instrctrl (op.setWidth 32))).advanceAt .s3Op

/-- program-address (R89): `W32 INSTRADDR, a`. -/
def State.programAddress (s : State) (a : Word) : State :=
  if s.frameHeld then s.raise .frameOverrun (.reg .instraddr)
  else ({ s with instraddr := a }.log (.regWrite .instraddr a)).advanceAt .s3Addr

/-- The record a frame write latches: opcode and address are sampled from their registers (R90). -/
def State.sampleFrame (s : State) (w : Word) : FrameRecord where
  seq    := s.nextSeq
  word   := w
  opcode := s.instrByte
  addr   := s.instraddr
  next   := s.firstOffset w
  data   := []

/-- program-frame (R90): `W32 INSTRFRAME, w`, the commit point of the frame. -/
def State.programFrame (s : State) (w : Word) : State :=
  if s.frameHeld then s.raise .frameOverrun (.reg .instrframe)
  else if reservedWord w then s.raise .reservedFieldValue (.word w)
  else
    ({ s with instrframe := w, settled := false, pending := some (s.sampleFrame w), nextSeq := s.nextSeq + 1 }.log
      (.regWrite .instrframe w)).keepWord w

/-- settle read-back (R91): `R32 INSTRFRAME`; the executor discards the value. -/
def State.settleRead (s : State) : State :=
  ({ s with settled := true }.log (.regRead .instrframe s.instrframe)).advanceAt .s4

/-- poll-completion-flag (R98): a read taken once `INSTREND` = 1; until then the executor holds and nothing changes
(R87, Log 17). The other bits of the word are drawn. -/
def State.pollComplete (s : State) : State :=
  if s.instrend then (s.drew.log (.regRead .intflag (intflagWord s.instrend s.drawnBits))).advanceAt .s6Poll else s

/-- clear-completion-flag (R99): `W32 INTFLAG, 0x0000_0400`. -/
def State.clearFlag (s : State) : State :=
  ({ s with instrend := instrendAfterWrite s.instrend instrendMask }.log (.regWrite .intflag instrendMask)).advanceAt .s6Clr

/-- WR_INSTRCTRL (R88). -/
def execWrInstrctrl (op : Byte) (s : State) : Host.Outcome State Fault Refusal :=
  s.whenLive (fun s => s.access (s.issues (.wrInstrctrl op)) (·.programOpcode op))

/-- WR_INSTRADDR (R89). -/
def execWrInstraddr (a : Word) (s : State) : Host.Outcome State Fault Refusal :=
  s.whenLive (fun s => s.access (s.issues (.wrInstraddr a)) (·.programAddress a))

/-- WR_INSTRFRAME (R90). -/
def execWrInstrframe (w : Word) (s : State) : Host.Outcome State Fault Refusal :=
  s.whenLive (fun s => s.access (s.issues (.wrInstrframe w)) (·.programFrame w))

/-- RD_INSTRFRAME (R91). -/
def execRdInstrframe (s : State) : Host.Outcome State Fault Refusal :=
  s.whenLive (fun s => s.access (s.issues .rdInstrframe) (·.settleRead))

/-- RD_INTFLAG (R98). -/
def execRdIntflag (s : State) : Host.Outcome State Fault Refusal :=
  s.whenLive (fun s => s.access (s.issues .rdIntflag) (·.pollComplete))

/-- CLR_INTFLAG (R99). -/
def execClrIntflag (s : State) : Host.Outcome State Fault Refusal :=
  s.whenLive (fun s => s.access (s.issues .clrIntflag) (·.clearFlag))

end Sys2Proof.Machine
end

