-- ==== Sys2Proof/Machine/Window.lean ====
section
/-! DEFINITION. The window data phase: one byte read from or written to a window offset of the pending frame
(41_transport_primitives.md R92, R93). -/

namespace Sys2Proof.Machine

/-- The first check of a window access that fails, in the order of R92 and R139; `write` is the access's direction. -/
def State.windowFault (s : State) (p : FrameRecord) (o : Nat) (write : Bool) : Option FaultCode :=
  if s.inflight || !dataEn p.word then some .noFrame
  else if !s.settled then some .unsettledFrame
  else if writeBit p.word != write then some .windowDirection
  else if o ≠ p.next then some .windowNonSequential
  else if s.cfg.cachePresent && s.csts then some .cacheActiveDataPhase
  else none

/-- One more byte of the pending frame has moved (R92, R93). -/
def State.moved (s : State) (p : FrameRecord) (b : Byte) : State :=
  { s with pending := some { p with data := p.data ++ [b], next := p.next + 1 } }

/-- window read of one byte at offset `o` (R92): the byte is the flash's. -/
def State.windowRead (s : State) (o : Nat) : State :=
  match s.pending with
  | none   => s.raise .noFrame (.offset o)
  | some p =>
    match s.windowFault p o false with
    | some code => s.raise code (.offset o)
    | none =>
      let b := s.flashByte p.seq p.data.length
      ((s.moved p b).log (.winRead o b)).copied [b]

/-- window write of one byte at offset `o` (R93). -/
def State.windowWrite (s : State) (o : Nat) (v : Byte) : State :=
  match s.pending with
  | none   => s.raise .noFrame (.offset o)
  | some p =>
    match s.windowFault p o true with
    | some code => s.raise code (.offset o)
    | none      => ((s.moved p v).log (.winWrite o v)).copied []

/-- WIN_RD (R92). -/
def execWinRd (o : Word) (s : State) : Host.Outcome State Fault Refusal :=
  s.whenLive (fun s => s.access (s.issues (.winRd o)) (·.windowRead o.toNat))

/-- WIN_WR (R93). -/
def execWinWr (o : Word) (v : Byte) (s : State) : Host.Outcome State Fault Refusal :=
  s.whenLive (fun s => s.access (s.issues (.winWr o v)) (·.windowWrite o.toNat v))

end Sys2Proof.Machine
end

