-- ==== Sys2Proof/Machine/Executor.lean ====
section
/-! DEFINITION. The transport executor: EXEC, one step of the executor on its latched request, at each row of its step table
(42_transport_executor.md R107, R109-R118). -/

namespace Sys2Proof.Machine

/-- `CHECK` (R109): the nine checks in order, then the enable bit. -/
def State.checkEntry (s : State) : State :=
  match s.req.firstFailing s.cfg with
  | some c => s.raise .malformedRequest (.check c)
  | none   => if s.enable then s.stepPc else s.raise .notEnabled (.request s.req)

/-- `S1` (R110): the window pointer, and whether the bracket is taken (R112). -/
def State.windowPointer (s : State) : State :=
  { s with ptr := s.cfg.windowBase + s.req.off, bracket := s.cfg.cachePresent && !s.req.optOut }.stepPc

/-- `S5(i)` (R115): one byte, its direction that of the effective type in the frame word. -/
def State.copyByte (s : State) (i : Nat) : State :=
  if writeBit s.word then s.windowWrite (s.copyOffset i) (s.bufferByte i) else s.windowRead (s.copyOffset i)

/-- What the request returns (R118): where failure is admitted, `FAIL` is a draw; a received byte is returned with `OK`
only. -/
def State.returnValue (s : State) : Result :=
  if s.cfg.failureAdmitted && s.drawnFail then .fail else .ok (if s.req.role = .rx then s.rx else [])

/-- `RET` (R118). -/
def State.returnRequest (s : State) : State :=
  let res := s.returnValue
  let s := if s.cfg.failureAdmitted then s.drew else s
  { s with result := some res, busy := false, pc := .idle }.log (.returned res)

/-- The executor's step at its current row (R25, R107); in `IDLE` it waits for a request. -/
def State.executorStep (s : State) : State :=
  match s.pc with
  | .idle    => s
  | .check   => s.checkEntry
  | .s1      => s.windowPointer
  | .s2Dis   => s.disableCache
  | .s2Poll  => s.pollClean
  | .s2Inv   => s.invalidateCache
  | .s3Op    => s.programOpcode s.req.instruction.opcode
  | .s3Addr  => s.programAddress s.programmedAddress
  | .s3Frame => s.programFrame s.requestWord
  | .s4      => s.settleRead
  | .s5 i    => s.copyByte i
  | .s6Start => s.startTransfer
  | .s6Dsb   => s.barrier .dsb .s6Dsb
  | .s6Isb   => s.barrier .isb .s6Isb
  | .s6Poll  => s.pollComplete
  | .s6Clr   => s.clearFlag
  | .s7      => s.enableCache
  | .ret     => s.returnRequest

/-- EXEC (R107): the executor takes its next step on the request it has latched, "one step at a time" (Log 12). -/
def execExec (s : State) : Host.Outcome State Fault Refusal := s.whenLive (·.executorStep)

end Sys2Proof.Machine
end

