-- ==== Sys2Proof/Machine/Templates.lean ====
section
/-! DEFINITION. Submission of a request (42_transport_executor.md R108) and the command templates, each of which builds one
request and submits it (43_command_templates.md R123-R130). -/

namespace Sys2Proof.Machine

/-- The descriptor of the register-command templates: single-line, no dummy cycles, base direction `Read` (R124). -/
def registerCommand (op : Byte) (hasAddress hasData : Bool) : Descriptor where
  opcode      := op
  hasAddress  := hasAddress
  hasData     := hasData
  dummyCycles := 0
  ioWidth     := .single
  direction   := .read

/-- `length` bytes of space that receives data; its incoming contents are ignored (R66, Log 24). -/
def receiveSpace (len : Word) : List Byte := List.replicate len.toNat 0

/-- The request of runCommand (R125). -/
def runRequest (op : Byte) (nocache : Bool) : Request where
  instruction := registerCommand op false false
  address     := 0
  role        := .noBuffer
  buffer      := []
  length      := 0
  optOut      := nocache

/-- The request of readCommand (R126). -/
def readRequest (op : Byte) (len : Word) (nocache : Bool) : Request where
  instruction := registerCommand op false true
  address     := 0
  role        := .rx
  buffer      := receiveSpace len
  length      := len
  optOut      := nocache

/-- The request of writeCommand, for any list of bytes (R127). -/
def writeRequest (op : Byte) (bytes : List Byte) (nocache : Bool) : Request where
  instruction := registerCommand op false true
  address     := 0
  role        := .tx
  buffer      := bytes
  length      := BitVec.ofNat 32 bytes.length
  optOut      := nocache

/-- The request of eraseCommand (R128). -/
def eraseRequest (op : Byte) (address : Word) (nocache : Bool) : Request where
  instruction := registerCommand op true false
  address     := address
  role        := .noBuffer
  buffer      := []
  length      := 0
  optOut      := nocache

/-- The request of readMemory, its opcode and dummy count the parameters (R129). -/
def readMemoryRequest (p : Params) (address len : Word) (nocache : Bool) : Request where
  instruction :=
    { opcode := p.qreadOpcode, hasAddress := true, hasData := true, dummyCycles := p.qreadDummy.toNat,
      ioWidth := .quad, direction := .readMemory }
  address := address
  role    := .rx
  buffer  := receiveSpace len
  length  := len
  optOut  := nocache

/-- The request of writeMemory (R130). -/
def writeMemoryRequest (p : Params) (address : Word) (bytes : List Byte) (nocache : Bool) : Request where
  instruction :=
    { opcode := p.qprogOpcode, hasAddress := true, hasData := true, dummyCycles := 0,
      ioWidth := .quad, direction := .writeMemory }
  address := address
  role    := .tx
  buffer  := bytes
  length  := BitVec.ofNat 32 bytes.length
  optOut  := nocache

/-- Submission of a request by the caller (R108). -/
def State.submitRequest (s : State) (r : Request) : State :=
  if s.busy then s.raise .reentrantCall (.request r)
  else { s with req := r, rx := [], busy := true, pc := .check }.log (.request r)

/-- SUBMIT (R108). -/
def execSubmit (r : Request) (s : State) : Host.Outcome State Fault Refusal := s.whenLive (·.submitRequest r)

/-- runCommand (R125): its one request is submitted; the executor's steps return its result (R123, Log 15). -/
def execRunCommand (op : Byte) (nocache : Bool) (s : State) : Host.Outcome State Fault Refusal :=
  s.whenLive (·.submitRequest (runRequest op nocache))

/-- readCommand (R126). -/
def execReadCommand (op : Byte) (len : Word) (nocache : Bool) (s : State) : Host.Outcome State Fault Refusal :=
  s.whenLive (·.submitRequest (readRequest op len nocache))

/-- writeCommand (R127). -/
def execWriteCommand (op : Byte) (bytes : List Byte) (nocache : Bool) (s : State) : Host.Outcome State Fault Refusal :=
  s.whenLive (·.submitRequest (writeRequest op bytes nocache))

/-- writeCommand with no bytes (R127). -/
def execWriteCommandLen0 (op : Byte) (nocache : Bool) (s : State) : Host.Outcome State Fault Refusal :=
  s.whenLive (·.submitRequest (writeRequest op [] nocache))

/-- eraseCommand (R128). -/
def execEraseCommand (op : Byte) (address : Word) (nocache : Bool) (s : State) : Host.Outcome State Fault Refusal :=
  s.whenLive (·.submitRequest (eraseRequest op address nocache))

/-- readMemory (R129). -/
def execReadMemory (address len : Word) (nocache : Bool) (s : State) : Host.Outcome State Fault Refusal :=
  s.whenLive (·.submitRequest (readMemoryRequest s.cfg address len nocache))

/-- writeMemory (R130). -/
def execWriteMemory (address : Word) (bytes : List Byte) (nocache : Bool) (s : State) : Host.Outcome State Fault Refusal :=
  s.whenLive (·.submitRequest (writeMemoryRequest s.cfg address bytes nocache))

end Sys2Proof.Machine
end

