-- ==== Sys2Proof/Machine/Dispatch.lean ====
section
/-! DEFINITION. exec: one arm for each constructor of Instr, each a direct call of its meaning. -/

namespace Sys2Proof.Machine

def exec (i : Instr) (s : State) : Host.Outcome State Fault Refusal :=
  match i with
  -- FRAME
  | .frameRead f => Sys2Proof.Machine.execFrameRead f s
  | .frameReadMemory f => Sys2Proof.Machine.execFrameReadMemory f s
  | .frameWrite f => Sys2Proof.Machine.execFrameWrite f s
  | .frameWriteMemory f => Sys2Proof.Machine.execFrameWriteMemory f s
  -- TEMPLATE
  | .runCommand op nocache => Sys2Proof.Machine.execRunCommand op nocache s
  | .readCommand op len nocache => Sys2Proof.Machine.execReadCommand op len nocache s
  | .writeCommand op bytes nocache => Sys2Proof.Machine.execWriteCommand op bytes nocache s
  | .writeCommandLen0 op nocache => Sys2Proof.Machine.execWriteCommandLen0 op nocache s
  | .eraseCommand op address nocache => Sys2Proof.Machine.execEraseCommand op address nocache s
  | .readMemory address len nocache => Sys2Proof.Machine.execReadMemory address len nocache s
  | .writeMemory address bytes nocache => Sys2Proof.Machine.execWriteMemory address bytes nocache s
  -- MICROOP
  | .wrInstrctrl op => Sys2Proof.Machine.execWrInstrctrl op s
  | .wrInstraddr a => Sys2Proof.Machine.execWrInstraddr a s
  | .wrInstrframe w => Sys2Proof.Machine.execWrInstrframe w s
  | .rdInstrframe => Sys2Proof.Machine.execRdInstrframe s
  | .winRd o => Sys2Proof.Machine.execWinRd o s
  | .winWr o v => Sys2Proof.Machine.execWinWr o v s
  | .start => Sys2Proof.Machine.execStart s
  | .rdIntflag => Sys2Proof.Machine.execRdIntflag s
  | .clrIntflag => Sys2Proof.Machine.execClrIntflag s
  | .cacheDisable => Sys2Proof.Machine.execCacheDisable s
  | .cacheEnable => Sys2Proof.Machine.execCacheEnable s
  | .rdCmccSr => Sys2Proof.Machine.execRdCmccSr s
  | .cacheInvalidate => Sys2Proof.Machine.execCacheInvalidate s
  -- OPERATION
  | .dsb => Sys2Proof.Machine.execDsb s
  | .isb => Sys2Proof.Machine.execIsb s
  | .complete => Sys2Proof.Machine.execComplete s
  | .cacheSettle => Sys2Proof.Machine.execCacheSettle s
  | .encode d txPresent length => Sys2Proof.Machine.execEncode d txPresent length s
  | .exec => Sys2Proof.Machine.execExec s
  | .submit r => Sys2Proof.Machine.execSubmit r s
  | .setclk hz => Sys2Proof.Machine.execSetclk hz s

end Sys2Proof.Machine
end

