-- ==== Sys2Proof/Machine/Fetch.lean ====
section
/-! DEFINITION. Where the next instruction comes from: the script's bytes, or an agent's own step chosen freely
(Log 1, Log 8, Log 11, Log 22). -/

namespace Sys2Proof.Machine

/-- What stands at the head of the script. -/
def State.fetch (s : State) : Fetched := decode s.cfg s.script

/-- The script after the head. -/
def State.withScript (s : State) (rest : List Byte) : State := { s with script := rest }

/-- The step of the agent that a free value names: the executor's, the controller's or the cache's own (R6, R157). -/
def State.freeInstr (s : State) : Instr :=
  match s.drawnAgent with
  | .executor   => .exec
  | .controller => .complete
  | .cache      => .cacheSettle

/-- Put a list of instructions at the end of the script (Log 11). -/
def State.queue (s : State) (is : List Instr) : State :=
  { s with script := s.script ++ (is.map (encode s.cfg)).flatten }

/-- Put the instruction that `bytes` begin with in front of the script, and no byte after it; bytes that begin with none go
in front whole. -/
def State.place (s : State) (bytes : List Byte) : State :=
  let used :=
    match decode s.cfg bytes with
    | .instr _ rest   => bytes.length - rest.length
    | .foreign _ rest => bytes.length - rest.length
    | .reject _       => bytes.length
  { s with script := bytes.take used ++ s.script }

end Sys2Proof.Machine
end

