-- ==== Sys2Proof/Machine/Step.lean ====
section
/-! DEFINITION. One step of the machine: the instruction at the head of the script, or, where the script is empty, the step of
a freely chosen agent (00_scope.md R6, 70_reset_and_hazards.md R157; Log 1, Log 22). -/

namespace Sys2Proof.Machine

/-- One step. From a state with a recorded fault there is none (R137). -/
def step (s : State) : Host.Outcome State Fault Refusal :=
  match s.haltedBy, s.script with
  | some code, _ => .fault (.halted code)
  | none, []     => exec s.freeInstr s.drew
  | none, _ :: _ =>
    match s.fetch with
    | .instr i rest   => exec i (s.withScript rest)
    | .foreign a rest => .next ((s.withScript rest).foreignAccess a)
    | .reject why     => .refused (.undecodable why)

/-- `s` with the instruction of a table word, its operand bytes zero, as the next one of its script (Log 11). -/
def State.withFetchWord (s : State) (nbits w : Nat) : State := s.place (tableWordBytes nbits w)

end Sys2Proof.Machine
end

