-- ==== Sys2Proof/Safety.lean ====
section
/-! DEFINITION. What counts as a good state and a good run, in the terms claims use: launch premise and end of a run
(70_reset_and_hazards.md R151, R158), the micro-operation trace of a request (42_transport_executor.md R119), the schedule of
95_test_vectors.md part 0, weakly fair runs (R157), an invariant of every instruction and one of the block's own agents. -/

namespace Sys2Proof

/-- An event is the submission of a request. -/
def Event.isRequest : Event → Bool
  | .request _ => true
  | _          => false

/-- An event is a return. -/
def Event.isReturn : Event → Bool
  | .returned _ => true
  | _           => false

/-- Whether a request takes the cache bracket (R110, R112). -/
def Request.bracketed (p : Params) (r : Request) : Bool := p.cachePresent && !r.optOut

/-- The steps of the caller, the executor, the controller and the cache controller, and the encoder: every instruction but
the register and window accesses, the barriers and the start write taken by themselves. -/
def Instr.ofAgent : Instr → Bool
  | .runCommand _ _ | .readCommand _ _ _ | .writeCommand _ _ _ | .writeCommandLen0 _ _ | .eraseCommand _ _ _
  | .readMemory _ _ _ | .writeMemory _ _ _ | .complete | .cacheSettle | .encode _ _ _ | .exec | .submit _ | .setclk _ => true
  | .frameRead _ | .frameReadMemory _ | .frameWrite _ | .frameWriteMemory _
  | .wrInstrctrl _ | .wrInstraddr _ | .wrInstrframe _ | .rdInstrframe | .winRd _ | .winWr _ _ | .start | .rdIntflag
  | .clrIntflag | .cacheDisable | .cacheEnable | .rdCmccSr | .cacheInvalidate | .dsb | .isb => false

/-- The submission of a request, by SUBMIT or by a template (R108, R123). -/
def Instr.submits : Instr → Bool
  | .runCommand _ _ | .readCommand _ _ _ | .writeCommand _ _ _ | .writeCommandLen0 _ _ | .eraseCommand _ _ _
  | .readMemory _ _ _ | .writeMemory _ _ _ | .submit _ => true
  | .frameRead _ | .frameReadMemory _ | .frameWrite _ | .frameWriteMemory _
  | .wrInstrctrl _ | .wrInstraddr _ | .wrInstrframe _ | .rdInstrframe | .winRd _ | .winWr _ _ | .start | .rdIntflag
  | .clrIntflag | .cacheDisable | .cacheEnable | .rdCmccSr | .cacheInvalidate | .dsb | .isb | .complete | .cacheSettle
  | .encode _ _ _ | .exec | .setclk _ => false

/-- The accesses to the block's registers and window (R88-R94, R98-R104; a frame kind is performed by the start write, R94). -/
def Instr.isAccess : Instr → Bool
  | .frameRead _ | .frameReadMemory _ | .frameWrite _ | .frameWriteMemory _
  | .wrInstrctrl _ | .wrInstraddr _ | .wrInstrframe _ | .rdInstrframe | .winRd _ | .winWr _ _ | .start | .rdIntflag
  | .clrIntflag | .cacheDisable | .cacheEnable | .rdCmccSr | .cacheInvalidate => true
  | .runCommand _ _ | .readCommand _ _ _ | .writeCommand _ _ _ | .writeCommandLen0 _ _ | .eraseCommand _ _ _
  | .readMemory _ _ _ | .writeMemory _ _ _ | .dsb | .isb | .complete | .cacheSettle | .encode _ _ _ | .exec | .submit _
  | .setclk _ => false

end Sys2Proof

namespace Sys2Proof.Machine

/-- Whether `pc` is the row of the executor's step table at which it makes this access (R25); false of what is no access. -/
def ownRow (i : Instr) (pc : Pc) : Bool :=
  match i with
  | .frameRead _ | .frameReadMemory _ | .frameWrite _ | .frameWriteMemory _ | .start => pc == .s6Start
  | .wrInstrctrl _   => pc == .s3Op
  | .wrInstraddr _   => pc == .s3Addr
  | .wrInstrframe _  => pc == .s3Frame
  | .rdInstrframe    => pc == .s4
  | .winRd _ | .winWr _ _ =>
    match pc with
    | .s5 _ => true
    | _     => false
  | .rdIntflag       => pc == .s6Poll
  | .clrIntflag      => pc == .s6Clr
  | .cacheDisable    => pc == .s2Dis
  | .cacheEnable     => pc == .s7
  | .rdCmccSr        => pc == .s2Poll
  | .cacheInvalidate => pc == .s2Inv
  | .dsb | .isb | .complete | .cacheSettle | .encode _ _ _ | .exec | .submit _ | .setclk _ => false
  | .runCommand _ _ | .readCommand _ _ _ | .writeCommand _ _ _ | .writeCommandLen0 _ _ | .eraseCommand _ _ _
  | .readMemory _ _ _ | .writeMemory _ _ _ => false

/-- The launch premise CleanEntry (R151). -/
def State.cleanEntry (s : State) : Bool :=
  s.faults.isEmpty && !s.refused && !s.busy && s.pc == .idle && s.pending.isNone && !s.inflight && !s.instrend
    && s.enable && s.csts == s.cen && s.history.isEmpty

/-- The executor is free and the controller is quiet: CleanEntry without its history and cache clauses (R151, R158). -/
def State.ready (s : State) : Bool :=
  s.faults.isEmpty && !s.busy && s.pc == .idle && s.pending.isNone && !s.inflight && !s.instrend && s.enable

/-- The successful end of a run (R158): every submitted request has its `Return`. -/
def State.runEnded (s : State) : Bool :=
  s.faults.isEmpty && !s.refused && s.pc == .idle && !s.busy && s.pending.isNone && !s.inflight && s.csts == s.cen
    && s.history.countP Event.isRequest == s.history.countP Event.isReturn

/-! ## Where an instruction stands in the step table -/

/-- A primitive without operand at its own row of the step table, or with no request in progress (R45, R121, Log 13). -/
def State.mayAccess (s : State) (row : Pc) : Prop := s.busy = false ∨ s.pc = row

/-- A primitive at its own row with the value `own` that the request gives it, or with no request in progress (R113, R121,
Log 13). -/
def State.mayWrite {α : Type} (s : State) (row : Pc) (v own : α) : Prop := s.busy = false ∨ (s.pc = row ∧ v = own)

/-- A window read of the byte the executor copies next, or with no request in progress (R115, R121, Log 13). -/
def State.mayCopyIn (s : State) (o : Word) : Prop :=
  s.busy = false ∨ ∃ n, s.pc = .s5 n ∧ s.word.getLsbD 13 = false ∧ o.toNat = (s.ptr - s.cfg.windowBase).toNat + n

/-- A window write of the byte the executor copies next, or with no request in progress (R115, R121, Log 13). -/
def State.mayCopyOut (s : State) (o : Word) (v : Byte) : Prop :=
  s.busy = false ∨ ∃ n, s.pc = .s5 n ∧ s.word.getLsbD 13 = true ∧ o.toNat = (s.ptr - s.cfg.windowBase).toNat + n
    ∧ s.req.buffer[n]? = some v

/-- `pc` after a primitive whose row is `row`, `next` the row after it (R25, R87). -/
def State.pcAfter (s : State) (row next : Pc) : Pc := if s.pc = row then next else s.pc

/-- `pc` after the copy of a byte (R115). -/
def State.pcAfterCopy (s : State) : Pc :=
  match s.pc with
  | .s5 i => if i + 1 < s.req.length.toNat then .s5 (i + 1) else .s6Start
  | other => other

/-- The state after the submission of a request (R108). -/
def State.submitted (s : State) (r : Request) : State :=
  { s with req := r, rx := [], busy := true, pc := .check, history := s.history ++ [.request r] }

/-- The state after a fault: the record, and nothing else changed (R137). -/
def State.faultedWith (s : State) (code : FaultCode) (info : FaultInfo) : State :=
  { s with faults := s.faults ++ [{ code, info, pc := s.pc }] }

/-! ## Traces -/

/-- A micro-operation as the trace syntax writes it (R70). -/
inductive TraceOp where
  | w32 (r : Reg) (v : Word)
  | r32 (r : Reg) (v : Word)
  | w8 (o : Nat) (b : Byte)
  | r8 (o : Nat) (b : Byte)
  | dsb
  | isb
  | poll (r : Reg)
deriving DecidableEq, Repr

/-- The micro-operation an event records, if it records one: a poll's read is a `POLL` line (R70, R87), the invalidate is
the write of `CMCC_MAINT0` (R103). -/
def traceOpOf : Event → Option TraceOp
  | .regWrite r v       => some (.w32 r v)
  | .regRead .intflag _ => some (.poll .intflag)
  | .regRead .cmccSr _  => some (.poll .cmccSr)
  | .regRead r v        => some (.r32 r v)
  | .winRead o b        => some (.r8 o b)
  | .winWrite o b       => some (.w8 o b)
  | .barrier .dsb       => some .dsb
  | .barrier .isb       => some .isb
  | .cacheInvalidate    => some (.w32 .cmccMaint0 1)
  | .frame _ | .complete _ | .cacheStatus _ | .request _ | .returned _ => none

/-- The micro-operations of a history, in order. -/
def traceOf (h : List Event) : List TraceOp := h.filterMap traceOpOf

/-- The frame event an event records. -/
def frameEventOf? : Event → Option FrameEvent
  | .frame e => some e
  | _        => none

/-- The frame events of a history, in order. -/
def framesOf (h : List Event) : List FrameEvent := h.filterMap frameEventOf?

/-- Lines of the trace for the bytes of a copy from offset `off` on (R115). -/
def copyTrace (op : Nat → Byte → TraceOp) : Nat → List Byte → List TraceOp
  | _, []        => []
  | off, b :: bs => op off b :: copyTrace op (off + 1) bs

/-- Steps 3 and 4 (R113, R114). -/
def programTrace (op : Byte) (a w : Word) : List TraceOp :=
  [.w32 .instrctrl (op.setWidth 32), .w32 .instraddr a, .w32 .instrframe w, .r32 .instrframe w]

/-- Step 6 (R116). -/
def finishTrace : List TraceOp := [.w32 .ctrla startWord, .dsb, .isb, .poll .intflag, .w32 .intflag instrendMask]

/-- Step 2 (R111), where it is taken. -/
def bracketEntry (taken : Bool) : List TraceOp :=
  if taken then [.w32 .cmccCtrl 0, .poll .cmccSr, .w32 .cmccMaint0 1] else []

/-- Step 7 (R117), where it is taken. -/
def bracketExit (taken : Bool) : List TraceOp := if taken then [.w32 .cmccCtrl 1] else []

/-- The complete micro-operation trace of a well-formed request, given the bytes a read receives (R119). -/
def expectedTrace (p : Params) (r : Request) (received : List Byte) : List TraceOp :=
  bracketEntry (r.bracketed p)
  ++ programTrace r.instruction.opcode r.off (r.encoded p)
  ++ (if writeBit (r.encoded p) then copyTrace .w8 r.off.toNat r.buffer else copyTrace .r8 r.off.toNat received)
  ++ finishTrace
  ++ bracketExit (r.bracketed p)

/-- The frame event of a well-formed request, given its number and the bytes a read receives (R32, R94, R119). -/
def expectedFrame (p : Params) (r : Request) (seq : Nat) (received : List Byte) : FrameEvent :=
  let t := r.effectiveType
  { seq, opcode := r.instruction.opcode, width := r.instruction.ioWidth.code, instrEn := true,
    addrEn := r.instruction.hasAddress, optEn := false, dataEn := r.instruction.hasData, crMode := false, ddrEn := false,
    addrLen := p.addrLen, addr := r.off, optLen := 0, optCode := 0, tfrType := t,
    dummy := BitVec.ofNat 5 r.instruction.dummyCycles,
    dir := if !r.instruction.hasData then .noData else if t.getLsbD 1 then .dirOut else .dirIn,
    data := if t.getLsbD 1 then r.buffer else received }

/-! ## Runs -/

/-- Run a list of instructions, stopping at the first that gives no next state. -/
def runInstrs : List Instr → State → Host.Outcome State Fault Refusal
  | [], s => .next s
  | i :: is, s =>
    match exec i s with
    | .next s'   => runInstrs is s'
    | .fault r   => .fault r
    | .refused r => .refused r

/-- `n` steps of the executor. -/
def execs (n : Nat) : List Instr := List.replicate n .exec

/-- The schedule of 95_test_vectors.md part 0 for one request: the completion right after the `ISB`, the cache's step right
after each `CMCC_CTRL` write. -/
def scheduleOf (p : Params) (r : Request) : List Instr :=
  .submit r :: execs 2
  ++ (if r.bracketed p then .exec :: .cacheSettle :: execs 2 else [])
  ++ execs 4 ++ execs r.length.toNat ++ execs 3
  ++ .complete :: execs 2
  ++ (if r.bracketed p then [.exec, .cacheSettle] else [])
  ++ execs 1

/-! ## Fair runs -/

/-- The step an agent takes of its own: the executor's, the controller's completion, the cache's status change (R6). -/
def ownStep : Agent → Instr
  | .executor   => .exec
  | .controller => .complete
  | .cache      => .cacheSettle

/-- An agent's own step is enabled: the executor is not waiting for a request and not held by a poll (R87, R98, R102), a frame
is in flight and not wedged (R97), `CSTS` is to follow `CEN` and is not wedged (R105). After a fault none is (R137). -/
def State.enabled (s : State) (a : Agent) : Bool :=
  s.faults.isEmpty && match a with
  | .executor   => s.pc != .idle && !(s.pc == .s2Poll && s.csts) && !(s.pc == .s6Poll && !s.instrend)
  | .controller => s.inflight && s.pending.any (fun p => !s.frameWedged p.seq)
  | .cache      => s.settleEnabled

/-- An infinite run: instruction `acts n` takes state `run n` to `run (n + 1)`. -/
def IsRun (acts : Nat → Instr) (run : Nat → State) : Prop := ∀ n, exec (acts n) (run n) = .next (run (n + 1))

/-- Weak fairness (R157): a step that stays enabled is eventually taken. R157 names the controller's and the cache's steps; the
executor's is among them here (DEDUCED, Log 35). -/
def WeaklyFair (acts : Nat → Instr) (run : Nat → State) : Prop :=
  ∀ (a : Agent) (n : Nat), ∃ m, n ≤ m ∧ ((run m).enabled a = false ∨ acts m = ownStep a)

/-! ## Invariants of every instruction -/

/-- A pending frame as every step keeps it: its word has no reserved encoding and is the one in `INSTRFRAME`, its opcode and
address are those of their registers, its number is the latest given out, its next offset counts its bytes, and without a
data phase it has none (R29, R61, R88-R93). -/
def State.pendingSound (s : State) (p : FrameRecord) : Bool :=
  !reservedWord p.word && p.word == s.instrframe && p.opcode == s.instrByte && p.addr == s.instraddr
    && p.seq + 1 == s.nextSeq && p.next == s.firstOffset p.word + p.data.length && (dataEn p.word || p.data.isEmpty)

/-- The frames of the history are numbered 0, 1, 2, ... (R29, R121), and `nextSeq` counts them and the pending frame that has
not been performed. -/
def State.numbered (s : State) : Bool :=
  (framesOf s.history).map (·.seq) == List.range (framesOf s.history).length
    && s.nextSeq == (framesOf s.history).length + (if s.pending.isSome && !s.inflight then 1 else 0)

/-- What every instruction keeps (R20, R21, R26, R29, R30, R137): reserved register bits are 0, a frame in flight is pending,
the executor is busy exactly when it is not idle, at most one fault is recorded, frames are numbered in order. -/
def State.sound (s : State) : Bool :=
  s.instrctrl.extractLsb' 8 24 == 0 && !reservedWord s.instrframe
    && s.pending.all s.pendingSound && (!s.inflight || s.pending.isSome)
    && s.busy == (s.pc != .idle) && s.faults.length ≤ 1
    && decide (s.lines.Pairwise (· < ·)) && s.numbered

/-- The part of the state that the events of the history determine. -/
structure View where
  instrctrl  : Word
  instraddr  : Word
  instrframe : Word
  settled    : Bool
  instrend   : Bool
  inflight   : Bool
  nextSeq    : Nat
  cen        : Bool
  csts       : Bool
  lines      : List Nat
  busy       : Bool
  req        : Request
  result     : Option Result
deriving DecidableEq, Repr

/-- That part of a state. -/
def State.view (s : State) : View where
  instrctrl  := s.instrctrl
  instraddr  := s.instraddr
  instrframe := s.instrframe
  settled    := s.settled
  instrend   := s.instrend
  inflight   := s.inflight
  nextSeq    := s.nextSeq
  cen        := s.cen
  csts       := s.csts
  lines      := s.lines
  busy       := s.busy
  req        := s.req
  result     := s.result

/-- What one event says of it: a register holds the value last written (R106), a frame write clears `settled` and a read of
`INSTRFRAME` sets it (R28), a frame is in flight from its start to its completion (R29, R97), `INSTREND` is set by the
completion and cleared by a 1 in bit 10 (R18), `CSTS` is what the cache last reported (R105), the invalidate empties the
cache (R103), a request is in progress from its submission to its return (R26, R118). -/
def View.after (v : View) : Event → View
  | .regWrite .instrctrl w  => { v with instrctrl := w }
  | .regWrite .instraddr w  => { v with instraddr := w }
  | .regWrite .instrframe w => { v with instrframe := w, settled := false, nextSeq := v.nextSeq + 1 }
  | .regWrite .cmccCtrl w   => { v with cen := cenOfWrite w }
  | .regWrite .intflag w    => { v with instrend := instrendAfterWrite v.instrend w }
  | .regWrite _ _           => v
  | .regRead .instrframe _  => { v with settled := true }
  | .regRead _ _            => v
  | .frame _                => { v with inflight := true }
  | .complete _             => { v with instrend := true, inflight := false }
  | .cacheInvalidate        => { v with lines := [] }
  | .cacheStatus c          => { v with csts := c }
  | .request r              => { v with busy := true, req := r }
  | .returned res           => { v with busy := false, result := some res }
  | .winRead _ _ | .winWrite _ _ | .barrier _ => v

/-- The view the whole history gives, from the launch state on. -/
def State.replay (s : State) : View := s.history.foldl View.after (State.launch s.cfg).view

/-! ## An invariant of the block's own agents -/

/-- No frame is pending or in flight and the completion flag is clear. -/
def State.quiet (s : State) : Bool := s.pending.isNone && !s.inflight && !s.instrend

/-- What `CHECK` and `S1` have established of the request in progress (R109, R110). -/
def State.prepared (s : State) : Bool :=
  s.req.wellFormed s.cfg && s.enable && s.ptr == s.cfg.windowBase + s.req.off
    && s.bracket == s.req.bracketed s.cfg

/-- Inside the bracket the cache is off (R111). -/
def State.cacheHeldOff (s : State) : Bool := !s.bracket || (!s.cen && !s.csts)

/-- The pending frame is the request's, with `i` bytes moved (R113, R115). -/
def State.framePending (s : State) (i : Nat) : Bool :=
  s.word == s.requestWord && s.pending.any (fun p =>
    p.word == s.requestWord && p.opcode == s.req.instruction.opcode && p.addr == s.req.off
      && p.next == s.req.off.toNat + i && p.data.length == i)

/-- What the steps of the block's agents keep, row by row of the executor's step table (R25, R108-R118). -/
def State.coherent (s : State) : Bool :=
  s.cfg.wf && s.busy == (s.pc != .idle) &&
  match s.pc with
  | .idle | .check => s.quiet
  | .s1 => s.quiet && s.req.wellFormed s.cfg && s.enable
  | .s2Dis => s.quiet && s.prepared && s.bracket
  | .s2Poll => s.quiet && s.prepared && s.bracket && !s.cen
  | .s2Inv => s.quiet && s.prepared && s.bracket && s.cacheHeldOff
  | .s3Op => s.quiet && s.prepared && s.cacheHeldOff
  | .s3Addr => s.quiet && s.prepared && s.cacheHeldOff && s.instrctrl == s.req.instruction.opcode.setWidth 32
  | .s3Frame =>
    s.quiet && s.prepared && s.cacheHeldOff && s.instrctrl == s.req.instruction.opcode.setWidth 32
      && s.instraddr == s.req.off
  | .s4 => s.prepared && s.cacheHeldOff && s.framePending 0 && !s.inflight && !s.instrend
  | .s5 i =>
    s.prepared && s.cacheHeldOff && s.framePending i && s.settled && !s.inflight && !s.instrend
      && i < s.req.length.toNat
  | .s6Start =>
    s.prepared && s.cacheHeldOff && s.framePending s.req.length.toNat && s.settled && !s.inflight && !s.instrend
  | .s6Dsb | .s6Isb | .s6Poll =>
    s.prepared && s.cacheHeldOff
      && ((s.inflight && s.framePending s.req.length.toNat && !s.instrend)
        || (!s.inflight && s.pending.isNone && s.instrend))
  | .s6Clr => s.prepared && s.cacheHeldOff && !s.inflight && s.pending.isNone && s.instrend
  | .s7 => s.prepared && s.cacheHeldOff && s.quiet && s.bracket
  | .ret => s.prepared && s.quiet

/-- The fault codes that R138 says the executor reaches from reset. -/
def FaultCode.reachable : FaultCode → Bool
  | .malformedRequest | .reentrantCall | .notEnabled | .cacheActiveDataPhase => true
  | .frameOverrun | .reservedFieldValue | .noFrame | .unsettledFrame | .windowDirection | .windowNonSequential
  | .staleCompletionFlag | .cacheMaintWhileActive => false

end Sys2Proof.Machine
end

