-- ==== Sys2Proof/Certificates/Slice0/Obligations.lean ====
section
/-! DEFINITION. The statements for the provers, each a numbered rule of spec/ or what follows from several. -/

open Sys2Proof Sys2Proof.Machine

/-- After a reset with parameters p: CTRLA, INSTRADDR, INSTRCTRL, INSTRFRAME read 0, INTFLAG reads its drawn bits with
INSTREND 0, CMCC_CTRL and CMCC_SR read P_CEN_AT_LAUNCH, CMCC_MAINT0 reads 0; settled 0; pending empty, inflight 0,
nextSeq 0; pc IDLE, busy 0, no result; history and faults empty, refused 0. `lines` and `clockHz`, which the rule
leaves open, are what the parameters say (any value). (The values of `lines` and `clockHz` are the model's parameters,
Log 4; R149's other executor fields hold no value and nothing is said of them, Log 5.)
Rests on R149, R30, R35, Log 4, Log 5. -/
def Obligations.ResetValues : Prop :=
  ∀ (p : Params) (drawn : Word),
    let s := State.launch p
    s.readReg drawn .ctrla = 0 ∧ s.readReg drawn .intflag = drawn &&& ~~~0x00000400 ∧ s.readReg drawn .instraddr = 0
    ∧ s.readReg drawn .instrctrl = 0 ∧ s.readReg drawn .instrframe = 0
    ∧ s.readReg drawn .cmccCtrl = (if p.cenAtLaunch then 1 else 0) ∧ s.readReg drawn .cmccSr = s.readReg drawn .cmccCtrl
    ∧ s.readReg drawn .cmccMaint0 = 0 ∧ s.lines = p.linesAtLaunch ∧ s.settled = false
    ∧ s.pending = none ∧ s.inflight = false ∧ s.nextSeq = 0 ∧ s.pc = .idle ∧ s.busy = false ∧ s.result = none
    ∧ s.history = [] ∧ s.faults = [] ∧ s.refused = false ∧ s.clockHz = p.clockAtLaunch

/-- cleanEntry holds exactly when no fault is recorded and refused = 0, busy = 0 and pc = IDLE, pending is empty and
inflight = 0, INSTREND = 0, ENABLE = 1, CSTS = CEN and the history is empty; the reset state after bring-up satisfies
it, without bring-up it does not. runEnded holds exactly when no fault is recorded, refused = 0, pc = IDLE with busy =
0, pending is empty and inflight = 0, CSTS = CEN, and the history has as many Return as Request events; a state with a
request in progress, a frame in flight or a cache step pending is not an end.
Formalises R151, R158. -/
def Obligations.CleanEntryAndEndOfRun : Prop :=
  (∀ s : State, s.cleanEntry = true ↔
    s.faults = [] ∧ s.refused = false ∧ s.busy = false ∧ s.pc = .idle ∧ s.pending = none ∧ s.inflight = false
      ∧ s.instrend = false ∧ s.enable = true ∧ s.csts = s.cen ∧ s.history = [])
  ∧ (∀ p : Params, (State.launch p).bringUp.cleanEntry = true ∧ (State.launch p).cleanEntry = false)
  ∧ (∀ s : State, s.runEnded = true ↔
    s.faults = [] ∧ s.refused = false ∧ s.pc = .idle ∧ s.busy = false ∧ s.pending = none ∧ s.inflight = false
      ∧ s.csts = s.cen ∧ s.history.countP Event.isRequest = s.history.countP Event.isReturn)
  ∧ ∀ s : State, s.busy = true ∨ s.inflight = true ∨ s.csts ≠ s.cen → s.runEnded = false

/-- From a state with no recorded fault whose script begins with bytes that decode to a well-formed instruction i, with
rest the bytes after it, step is exec of i on the state whose script is rest; nothing else is added around exec. With
an empty script, step is exec of EXEC, of COMPLETE or of CACHE_SETTLE with one more free value drawn: which of them is
free. (The script and the free schedule are the model's choice, Log 1, Log 8 and Log 22.)
Rests on R6, R45, R157, Log 1, Log 8, Log 22. -/
def Obligations.StepRunsDecodedInstruction : Prop :=
  ∀ s : State, s.faults = [] →
    (∀ (i : Instr) (rest : List Byte), s.script ≠ [] → decode s.cfg s.script = .instr i rest →
      step s = exec i { s with script := rest })
    ∧ (s.script = [] → ∃ i ∈ [Instr.exec, .complete, .cacheSettle], step s = exec i { s with draws := s.draws + 1 })

/-- From a state with no recorded fault whose script begins with an access a of another agent: if a byte of it is a byte
of one of the block's registers or of its window, the step sets the refused mark and changes nothing else (beside
taking the bytes from the script); if none is, it changes nothing at all.
Rests on R140, R43, Log 28. -/
def Obligations.ForeignAccessSetsRefused : Prop :=
  ∀ (s : State) (a : Access) (rest : List Byte), s.faults = [] → s.script ≠ [] → decode s.cfg s.script = .foreign a rest →
    ((∃ k < a.bytes, s.cfg.inWindow (a.addr + BitVec.ofNat 32 k) = true
        ∨ ∃ r, (a.addr + BitVec.ofNat 32 k) &&& 0xFFFFFFFC = s.cfg.regAddr r) →
      step s = .next { s with script := rest, refused := true })
    ∧ ((∀ k < a.bytes, s.cfg.inWindow (a.addr + BitVec.ofNat 32 k) = false
        ∧ ∀ r, (a.addr + BitVec.ofNat 32 k) &&& 0xFFFFFFFC ≠ s.cfg.regAddr r) →
      step s = .next { s with script := rest })

/-- From a state with a recorded fault, every instruction and every step answers the stop that names the first recorded
fault: no instruction has an effect and no request can be submitted.
Rests on R137, R34, Log 6. -/
def Obligations.NoStepAfterFault : Prop :=
  ∀ (s : State) (f : FaultEntry) (fs : List FaultEntry), s.faults = f :: fs →
    step s = .fault (.halted f.code) ∧ ∀ i : Instr, exec i s = .fault (.halted f.code)

/-- One word of each family, its bytes written from the spec's encodings under the default parameters (the row number and
the operand bytes are the model's, Log 8): 0x00000010 as a READ frame and as runCommand, 0x000030B2 as a WRITEMEMORY
frame and as writeMemory, 0x42003434 as WR_INSTRCTRL, 0x04000100 as WIN_RD, 0x42003400 as START, 0x41006020 as
CACHE_INVALIDATE, and DSB.
Rests on R52, R67, R123, Log 8. -/
def Obligations.SpecWordsDecode : Prop :=
  decode Params.default [0x10, 0x00, 0x00, 0x00, 1]
      = .instr (.frameRead
          { width := 0, instrEn := true, addrEn := false, optEn := false, dataEn := false, optLen := 0,
            addrLen := .a24, crMode := false, ddrEn := false, dummy := 0 }) []
  ∧ decode Params.default [0xB2, 0x30, 0x00, 0x00, 4]
      = .instr (.frameWriteMemory
          { width := 2, instrEn := true, addrEn := true, optEn := false, dataEn := true, optLen := 0,
            addrLen := .a24, crMode := false, ddrEn := false, dummy := 0 }) []
  ∧ decode Params.default [0x10, 0x00, 0x00, 0x00, 5, 0x06, 0] = .instr (.runCommand 0x06 false) []
  ∧ decode Params.default [0xB2, 0x30, 0x00, 0x00, 11, 0x00, 0x01, 0, 0, 2, 0, 0, 0, 0xDE, 0xAD, 1]
      = .instr (.writeMemory 0x00000100 [0xDE, 0xAD] true) []
  ∧ decode Params.default [0x34, 0x34, 0x00, 0x42, 12, 0x9F, 0, 0, 0] = .instr (.wrInstrctrl 0x9F) []
  ∧ decode Params.default [0x00, 0x01, 0x00, 0x04, 16] = .instr (.winRd 0x100) []
  ∧ decode Params.default [0x00, 0x34, 0x00, 0x42, 18] = .instr .start []
  ∧ decode Params.default [0x20, 0x60, 0x00, 0x41, 24] = .instr .cacheInvalidate []
  ∧ decode Params.default [0x00, 0x00, 0x00, 0x00, 25] = .instr .dsb []

/-- For all parameters in their ranges, every well-formed instruction (all 32 constructors, every operand value) and all
following bytes: decode of the instruction's encoding followed by those bytes is the instruction, with exactly those
bytes left. (The bytes are the model's form, Log 8 to Log 10.)
Rests on R52, R64, R65, R67, R88, R92, Log 8, Log 9, Log 10. -/
def Obligations.DecodeAfterEncode : Prop :=
  ∀ (p : Params) (i : Instr) (rest : List Byte), p.wf = true → i.wellFormed p = true →
    decode p (encode p i ++ rest) = .instr i rest

/-- Whatever the bytes: an instruction the decoder gives passes every operand check, the bytes begin with a word of the
instruction's row, and the bytes left over are the end of the bytes given. In particular a frame word with a reserved
encoding is never accepted.
Rests on R61, R67, R72, Log 8. -/
def Obligations.DecodedIsWellFormed : Prop :=
  ∀ (p : Params) (bs rest : List Byte) (i : Instr), decode p bs = .instr i rest →
    i.wellFormed p = true
    ∧ (∃ b0 b1 b2 b3 more, bs = b0 :: b1 :: b2 :: b3 :: more ∧ i.row.matchesWord p (wordOfBytes b0 b1 b2 b3) = true)
    ∧ ∃ used, used ≠ [] ∧ bs = used ++ rest

/-- FRAME rows match a word without a reserved encoding on mask 0x00003000 and their TFRTYPE; template rows match on mask
0xFFFFFBFF (readMemory 0xFFE0FBFF) the word ENCODE gives the template; register rows match their address on all bits
and window rows on mask 0xFF000000; OPERATION rows have the word 0 and are selected by name. writeCommand with length
0 and readCommand are both named for the word 0x00000090. (The table gives OPERATION rows mask 0 and match 0, no bits;
that their word is 0, on all bits, is the model's choice, Log 9.)
Rests on R67, R61, Log 9. -/
def Obligations.MicroOpRowsMatch : Prop :=
  ∀ w : Word,
    let on (mask bits : Word) : Bool := w &&& mask = bits
    let row (r : Row) : Bool := r.matchesWord Params.default w
    (row .frameRead = (on 0x00003000 0x00000000 && !reservedWord w)
      ∧ row .frameReadMemory = (on 0x00003000 0x00001000 && !reservedWord w)
      ∧ row .frameWrite = (on 0x00003000 0x00002000 && !reservedWord w)
      ∧ row .frameWriteMemory = (on 0x00003000 0x00003000 && !reservedWord w))
    ∧ (row .runCommand = on 0xFFFFFBFF 0x00000010 ∧ row .readCommand = on 0xFFFFFBFF 0x00000090
      ∧ row .writeCommand = on 0xFFFFFBFF 0x00002090 ∧ row .writeCommandLen0 = on 0xFFFFFBFF 0x00000090
      ∧ row .eraseCommand = on 0xFFFFFBFF 0x00000030 ∧ row .readMemory = on 0xFFE0FBFF 0x000010B2
      ∧ row .writeMemory = on 0xFFFFFBFF 0x000030B2)
    ∧ (row .wrInstrctrl = on 0xFFFFFFFF 0x42003434 ∧ row .wrInstraddr = on 0xFFFFFFFF 0x42003430
      ∧ row .wrInstrframe = on 0xFFFFFFFF 0x42003438 ∧ row .rdInstrframe = on 0xFFFFFFFF 0x42003438
      ∧ row .winRd = on 0xFF000000 0x04000000 ∧ row .winWr = on 0xFF000000 0x04000000
      ∧ row .start = on 0xFFFFFFFF 0x42003400 ∧ row .rdIntflag = on 0xFFFFFFFF 0x4200341C
      ∧ row .clrIntflag = on 0xFFFFFFFF 0x4200341C ∧ row .cacheDisable = on 0xFFFFFFFF 0x41006008
      ∧ row .cacheEnable = on 0xFFFFFFFF 0x41006008 ∧ row .rdCmccSr = on 0xFFFFFFFF 0x4100600C
      ∧ row .cacheInvalidate = on 0xFFFFFFFF 0x41006020)
    ∧ (∀ r ∈ [Row.dsb, .isb, .complete, .cacheSettle, .encode, .exec, .submit, .setclk],
        row r = on 0xFFFFFFFF 0x00000000 ∧ r ∉ Row.byWord)
    ∧ classifyTemplates Params.default 0x00000090 = [.readCommand, .writeCommandLen0]

/-- For every transfer type and all other fields: WIDTH is bits 2:0, INSTREN 4, ADDREN 5, OPTCODEEN 6, DATAEN 7,
OPTCODELEN 9:8, ADDRLEN 10, TFRTYPE 13:12, CRMODE 14, DDREN 15, DUMMYLEN 20:16 of the frame word, its bits 3, 11 and
31:21 are 0, and DECODE of it returns those fields, with verdict reserved exactly when WIDTH is 7.
Formalises R52. -/
def Obligations.FrameWordGivesFieldsBack : Prop :=
  ∀ (t : BitVec 2) (f : FrameFields),
    let w := frameWord t f
    w.extractLsb' 0 3 = f.width ∧ w.getLsbD 3 = false ∧ w.getLsbD 4 = f.instrEn ∧ w.getLsbD 5 = f.addrEn
    ∧ w.getLsbD 6 = f.optEn ∧ w.getLsbD 7 = f.dataEn ∧ w.extractLsb' 8 2 = f.optLen
    ∧ w.getLsbD 10 = (f.addrLen == .a32) ∧ w.getLsbD 11 = false ∧ w.extractLsb' 12 2 = t ∧ w.getLsbD 14 = f.crMode
    ∧ w.getLsbD 15 = f.ddrEn ∧ w.extractLsb' 16 5 = f.dummy ∧ w.extractLsb' 21 11 = 0
    ∧ decodeFrame w = { tfrType := t, fields := f, reserved := f.width == 7 }

/-- For every 32-bit word with bits 3, 11 and 31:21 zero, putting the fields DECODE returns into a frame word gives the
word back: DECODE loses no bit of it.
Rests on R52, R61, R68. -/
def Obligations.FieldsGiveFrameWordBack : Prop :=
  ∀ w : Word, w.getLsbD 3 = false → w.getLsbD 11 = false → w.extractLsb' 21 11 = 0 →
    frameWord (decodeFrame w).tfrType (decodeFrame w).fields = w

/-- For every address length, descriptor with at most 31 dummy cycles, transmit bit and length: ENCODE is widthCode | 0x10
| (hasAddress << 5) | (hasData << 7) | (addrLen32 << 10) | (t << 12) | (dummyCycles << 16), with t the type code, its
bit 1 set when transmit data and a nonzero length are present.
Formalises R74. -/
def Obligations.EncodeOfDescriptor : Prop :=
  ∀ (a : AddrLen) (d : Descriptor) (txPresent : Bool) (length : Word), d.dummyCycles ≤ 31 →
    let bit (b : Bool) : Word := if b then 1#32 else 0#32
    let t : BitVec 2 := if txPresent = true ∧ length ≠ 0 then d.direction.code ||| 0b10#2 else d.direction.code
    encodeFrame a d txPresent length =
      d.ioWidth.code.setWidth 32 ||| 0x10 ||| (bit d.hasAddress <<< 5) ||| (bit d.hasData <<< 7)
        ||| (bit (a == .a32) <<< 10) ||| (t.setWidth 32 <<< 12) ||| (BitVec.ofNat 32 d.dummyCycles <<< 16)

/-- For every well-formed dummy count: WIDTH is the width code (0 to 6 for the seven members), INSTREN 1, ADDREN
hasAddress, OPTCODEEN and OPTCODELEN 0, DATAEN hasData, ADDRLEN 1 exactly when P_ADDR_LEN is 32, TFRTYPE the type code
(0 to 3) with the override, CRMODE and DDREN 0, DUMMYLEN the dummy count. Override: Read becomes Write and ReadMemory
becomes WriteMemory exactly when transmit data and a nonzero length are present; Write and WriteMemory stay.
Formalises R75, R76, R80, R83. -/
def Obligations.EncodeFields : Prop :=
  ∀ (a : AddrLen) (d : Descriptor) (txPresent : Bool) (length : Word), d.dummyCycles ≤ 31 →
    let w := encodeFrame a d txPresent length
    let override : Bool := txPresent && length != 0
    w.extractLsb' 0 3 = (match d.ioWidth with
      | .single => 0 | .dual => 1 | .quad => 2 | .dualIO => 3 | .quadIO => 4 | .dualCmd => 5 | .quadCmd => 6)
    ∧ w.getLsbD 4 = true ∧ w.getLsbD 5 = d.hasAddress ∧ w.getLsbD 6 = false ∧ w.extractLsb' 8 2 = 0
    ∧ w.getLsbD 7 = d.hasData ∧ w.getLsbD 10 = (a == .a32)
    ∧ w.extractLsb' 12 2 = (match d.direction with
      | .read => if override then 2 else 0 | .readMemory => if override then 3 else 1 | .write => 2 | .writeMemory => 3)
    ∧ w.getLsbD 14 = false ∧ w.getLsbD 15 = false ∧ (w.extractLsb' 16 5).toNat = d.dummyCycles

/-- TFRTYPE of the word ENCODE returns: with transmit data and a nonzero length Read (0) becomes Write (2), ReadMemory (1)
becomes WriteMemory (3), Write and WriteMemory stay; without transmit data or with length 0 there is no override. The
override comes before WF8: a request of role TX with a nonzero length passes WF8 whatever its base type, and a Write
or WriteMemory descriptor with another role and a nonzero length fails it.
Formalises R82. -/
def Obligations.DataDirectionOverride : Prop :=
  ∀ (a : AddrLen) (d : Descriptor) (txPresent : Bool) (length : Word),
    let t := tfrType (encodeFrame a d txPresent length)
    (txPresent = true → length ≠ 0 → t = (match d.direction with | .read => 2 | .readMemory => 3 | .write => 2 | .writeMemory => 3))
    ∧ (txPresent = false ∨ length = 0 →
        t = (match d.direction with | .read => 0 | .readMemory => 1 | .write => 2 | .writeMemory => 3))
    ∧ ∀ (p : Params) (r : Request), r.length ≠ 0 →
        (r.role = .tx → r.passes p .wf8 = true)
        ∧ (r.role ≠ .tx → r.instruction.direction = .write ∨ r.instruction.direction = .writeMemory → r.passes p .wf8 = false)

/-- For every address length and word w: w is ENCODE of some descriptor with at most 31 dummy cycles, some transmit bit
and some length exactly when bits 31:21, 15, 14, 11, 9:8, 6 and 3 are 0, bit 10 is 1 exactly for 32-bit addresses, bit
4 is 1 and bits 2:0 are not 7. Any other word without a reserved encoding is accepted by the frame write all the same,
where that write may be made: with no recorded fault, no frame pending or in flight and no request in progress,
INSTRFRAME holds the word afterwards and no fault is recorded. (While a request is in progress the write at its row
takes effect with the word ENCODE gives that request only, and with another it sets the refused mark; that with no
request in progress the bare write acts is the model's reading of the V vectors, Log 13.)
Rests on R63, R90, Log 13, 95_test_vectors.md 2.3. -/
def Obligations.EncodeImage : Prop :=
  ∀ (a : AddrLen) (w : Word),
    ((∃ (d : Descriptor) (txPresent : Bool) (length : Word), d.dummyCycles ≤ 31 ∧ encodeFrame a d txPresent length = w) ↔
      (w.extractLsb' 21 11 = 0 ∧ w.getLsbD 15 = false ∧ w.getLsbD 14 = false ∧ w.getLsbD 11 = false
        ∧ w.getLsbD 10 = (a == .a32) ∧ w.extractLsb' 8 2 = 0 ∧ w.getLsbD 6 = false ∧ w.getLsbD 4 = true
        ∧ w.getLsbD 3 = false ∧ w.extractLsb' 0 3 ≠ 7))
    ∧ (reservedWord w = false → ∀ s : State, s.faults = [] → s.mayWrite .s3Frame w (s.req.encoded s.cfg) → s.pending = none → s.inflight = false →
        ∃ t, exec (.wrInstrframe w) s = .next t ∧ t.instrframe = w ∧ t.faults = [])
    ∧ (inImage a w = true ↔
        ∃ (d : Descriptor) (txPresent : Bool) (length : Word), d.dummyCycles ≤ 31 ∧ encodeFrame a d txPresent length = w)

/-- For a fixed address length: two calls with at most 31 dummy cycles give the same word exactly when the descriptors
agree in width code, hasAddress, hasData and dummy count and the effective types agree. So the opcode has no effect on
the word, and the length only through being 0 or not.
Rests on R85, R86. -/
def Obligations.EncodeInjective : Prop :=
  ∀ (a : AddrLen) (d e : Descriptor) (dTx eTx : Bool) (dLen eLen : Word), d.dummyCycles ≤ 31 → e.dummyCycles ≤ 31 →
    (encodeFrame a d dTx dLen = encodeFrame a e eTx eLen ↔
      d.ioWidth = e.ioWidth ∧ d.hasAddress = e.hasAddress ∧ d.hasData = e.hasData
        ∧ effectiveType d.direction dTx dLen = effectiveType e.direction eTx eLen ∧ d.dummyCycles = e.dummyCycles)

/-- From every state with no recorded fault, for every descriptor with at most 31 dummy cycles (R84), every transmit bit
and every length, the instruction ENCODE(d, txPresent, length) answers a next state that differs only in the encoder's
output port, which holds the word ENCODE computes: no register, no flag, no hidden field, no history event, no step of
the executor. (The output port is the model's own field, Log 16; that the row runs also on operands no well-formed
request has is the model's choice, Log 33.)
Rests on R72, R85, Log 16, R84, Log 33. -/
def Obligations.EncodeTouchesNoState : Prop :=
  ∀ (s : State) (d : Descriptor) (txPresent : Bool) (length : Word), s.faults = [] → d.dummyCycles ≤ 31 →
    exec (.encode d txPresent length) s = .next { s with encOut := encodeFrame s.cfg.addrLen d txPresent length }

/-- For all operands (readCommand and readMemory with any length, writeCommand and writeMemory with any bytes a 32-bit
count holds): the frame word of the template's request is 0x10, 0x90, 0x2090 (0x90 with no bytes), 0x30, 0x10B2 |
(P_QREAD_DUMMY << 16), 0x30B2, each with bit 10 set as well when P_ADDR_LEN = 32.
Rests on R123, R125, R126, R127, R128, R129, R130, R80. -/
def Obligations.TemplateFrameWords : Prop :=
  ∀ (p : Params) (op : Byte) (a len : Word) (bytes : List Byte) (nocache : Bool), bytes.length < 2 ^ 32 →
    let word (w : Word) : Word := w ||| (if p.addrLen = .a32 then 0x00000400 else 0)
    (runRequest op nocache).encoded p = word 0x00000010
    ∧ (readRequest op len nocache).encoded p = word 0x00000090
    ∧ (writeRequest op bytes nocache).encoded p = word (if bytes = [] then 0x00000090 else 0x00002090)
    ∧ (eraseRequest op a nocache).encoded p = word 0x00000030
    ∧ (readMemoryRequest p a len nocache).encoded p = word (0x000010B2 ||| (p.qreadDummy.setWidth 32 <<< 16))
    ∧ (writeMemoryRequest p a bytes nocache).encoded p = word 0x000030B2

/-- With no recorded fault and the access at its row with the value the request gives it (or no request in progress): if
no frame is pending or in flight, INSTRCTRL becomes zext_32(op), RegWrite(INSTRCTRL, zext_32(op)) is appended, pc goes
from S3_OP to S3_ADDR, and nothing else changes, for every opcode; otherwise FRAME_OVERRUN(INSTRCTRL) is recorded with
pc, and nothing else changes. (The case of no request in progress, where the primitive acts and pc stays, is the
model's reading of the V vectors, Log 13.)
Rests on R88, R113, Log 13, 95_test_vectors.md 2.3. -/
def Obligations.OpcodeWrite : Prop :=
  ∀ (s : State) (op : Byte), s.faults = [] → s.mayWrite .s3Op op s.req.instruction.opcode →
    (s.inflight = false → s.pending = none →
      exec (.wrInstrctrl op) s = .next { s with
        instrctrl := op.setWidth 32
        history := s.history ++ [.regWrite .instrctrl (op.setWidth 32)]
        pc := s.pcAfter .s3Op .s3Addr })
    ∧ (s.inflight = true ∨ s.pending ≠ none →
      exec (.wrInstrctrl op) s = .next (s.faultedWith .frameOverrun (.reg .instrctrl)))

/-- With no recorded fault and the access at its row with the value the request gives it (or no request in progress): if
no frame is pending or in flight, INSTRADDR becomes a (any 32-bit value), RegWrite(INSTRADDR, a) is appended, pc goes
from S3_ADDR to S3_FRAME, and nothing else changes; otherwise FRAME_OVERRUN(INSTRADDR) is recorded, and nothing else
changes. (The case of no request in progress, where the primitive acts and pc stays, is the model's reading of the V
vectors, Log 13.)
Rests on R89, R113, Log 13, 95_test_vectors.md 2.3. -/
def Obligations.AddressWrite : Prop :=
  ∀ (s : State) (a : Word), s.faults = [] → s.mayWrite .s3Addr a s.req.off →
    (s.inflight = false → s.pending = none →
      exec (.wrInstraddr a) s = .next { s with
        instraddr := a
        history := s.history ++ [.regWrite .instraddr a]
        pc := s.pcAfter .s3Addr .s3Frame })
    ∧ (s.inflight = true ∨ s.pending ≠ none →
      exec (.wrInstraddr a) s = .next (s.faultedWith .frameOverrun (.reg .instraddr)))

/-- With no recorded fault and the access at its row with the value the request gives it (or no request in progress): a
frame pending or in flight gives FRAME_OVERRUN(INSTRFRAME); else bit 3, 11 or 31:21 set or WIDTH = 7 gives
RESERVED_FIELD_VALUE(w); else INSTRFRAME becomes w, settled 0, the pending frame { nextSeq, w, INSTRCTRL[7:0],
INSTRADDR, o0, [] } with o0 the low P_ADDR_LEN bits of INSTRADDR where w[5] = 1 and 0 otherwise, nextSeq goes up by
one, RegWrite(INSTRFRAME, w) is appended, at S3_FRAME the executor's word becomes w and pc goes to S4, and nothing
else changes. (The case of no request in progress, where the primitive acts and pc stays, is the model's reading of
the V vectors, Log 13.)
Rests on R90, R113, Log 13, 95_test_vectors.md 2.3. -/
def Obligations.FrameWrite : Prop :=
  ∀ (s : State) (w : Word), s.faults = [] → s.mayWrite .s3Frame w (s.req.encoded s.cfg) →
    let reserved := w.getLsbD 3 = true ∨ w.getLsbD 11 = true ∨ w.extractLsb' 21 11 ≠ 0 ∨ w.extractLsb' 0 3 = 7
    (s.inflight = true ∨ s.pending ≠ none →
      exec (.wrInstrframe w) s = .next (s.faultedWith .frameOverrun (.reg .instrframe)))
    ∧ (s.inflight = false → s.pending = none → reserved →
      exec (.wrInstrframe w) s = .next (s.faultedWith .reservedFieldValue (.word w)))
    ∧ (s.inflight = false → s.pending = none → ¬reserved →
      exec (.wrInstrframe w) s = .next { s with
        instrframe := w
        settled := false
        pending := some
          { seq := s.nextSeq, word := w, opcode := s.instrctrl.extractLsb' 0 8, addr := s.instraddr,
            next := if w.getLsbD 5 = true then s.instraddr.toNat % 2 ^ s.cfg.addrLen.bits else 0, data := [] }
        nextSeq := s.nextSeq + 1
        history := s.history ++ [.regWrite .instrframe w]
        word := if s.pc = .s3Frame then w else s.word
        pc := s.pcAfter .s3Frame .s4 })

/-- With no recorded fault and the access at its row (or no request in progress): settled becomes 1, RegRead(INSTRFRAME,
v) is appended with v the register's value, pc goes from S4 to S5(0) where length > 0 and to S6_START otherwise, and
nothing else changes, with or without a pending frame. The executor's step at S4 is that read-back. (The case of no
request in progress, where the primitive acts and pc stays, is the model's reading of the V vectors, Log 13.)
Rests on R91, R114, Log 13, 95_test_vectors.md 2.3. -/
def Obligations.SettleReadBack : Prop :=
  ∀ s : State, s.faults = [] →
    (s.mayAccess .s4 →
      exec .rdInstrframe s = .next { s with
        settled := true
        history := s.history ++ [.regRead .instrframe s.instrframe]
        pc := s.pcAfter .s4 (if 0 < s.req.length.toNat then .s5 0 else .s6Start) })
    ∧ (s.pc = .s4 →
      exec .exec s = .next { s with
        settled := true
        history := s.history ++ [.regRead .instrframe s.instrframe]
        pc := if 0 < s.req.length.toNat then .s5 0 else .s6Start })

/-- With no recorded fault and the byte the executor copies next (or no request in progress), a window read at offset o:
no pending frame, a frame in flight or DATAEN = 0 gives NO_FRAME(o); else settled = 0 gives UNSETTLED_FRAME(o); else a
write frame gives WINDOW_DIRECTION(o); else o other than the frame's next offset gives WINDOW_NON_SEQUENTIAL(o); else
an active cache that is present gives CACHE_ACTIVE_DATA_PHASE(o); else the byte b = FlashRead(history, seq, k), k the
number of bytes moved, is appended to the frame's data, next goes up by one, WinRead(o, b) is appended, at a copy row
b is appended to rx and pc goes on, and nothing else changes. b is a free value: the statement holds whatever it is.
(The case of no request in progress, where the primitive acts and pc stays, is the model's reading of the V vectors,
Log 13.)
Rests on R92, R33, R115, Log 13, 95_test_vectors.md 2.3. -/
def Obligations.WindowRead : Prop :=
  ∀ (s : State) (o : Word), s.faults = [] → s.mayCopyIn o →
    (s.pending = none → exec (.winRd o) s = .next (s.faultedWith .noFrame (.offset o.toNat)))
    ∧ ∀ p : FrameRecord, s.pending = some p →
      let b := s.flashByte p.seq p.data.length
      (s.inflight = true ∨ p.word.getLsbD 7 = false → exec (.winRd o) s = .next (s.faultedWith .noFrame (.offset o.toNat)))
      ∧ (s.inflight = false → p.word.getLsbD 7 = true →
        (s.settled = false → exec (.winRd o) s = .next (s.faultedWith .unsettledFrame (.offset o.toNat)))
        ∧ (s.settled = true → p.word.getLsbD 13 = true →
          exec (.winRd o) s = .next (s.faultedWith .windowDirection (.offset o.toNat)))
        ∧ (s.settled = true → p.word.getLsbD 13 = false → o.toNat ≠ p.next →
          exec (.winRd o) s = .next (s.faultedWith .windowNonSequential (.offset o.toNat)))
        ∧ (s.settled = true → p.word.getLsbD 13 = false → o.toNat = p.next → s.cfg.cachePresent = true → s.csts = true →
          exec (.winRd o) s = .next (s.faultedWith .cacheActiveDataPhase (.offset o.toNat)))
        ∧ (s.settled = true → p.word.getLsbD 13 = false → o.toNat = p.next → s.cfg.cachePresent = false ∨ s.csts = false →
          exec (.winRd o) s = .next { s with
            pending := some { p with data := p.data ++ [b], next := p.next + 1 }
            history := s.history ++ [.winRead o.toNat b]
            rx := if s.atCopy then s.rx ++ [b] else s.rx
            pc := s.pcAfterCopy }))

/-- As WIN_RD with the direction test reversed: where every check passes, the byte v is appended to the frame's data
unchanged, next goes up by one, WinWrite(o, v) is appended, at a copy row pc goes on, and nothing else changes. (The
case of no request in progress, where the primitive acts and pc stays, is the model's reading of the V vectors, Log
13.)
Rests on R93, R115, Log 13, 95_test_vectors.md 2.3. -/
def Obligations.WindowWrite : Prop :=
  ∀ (s : State) (o : Word) (v : Byte), s.faults = [] → s.mayCopyOut o v →
    (s.pending = none → exec (.winWr o v) s = .next (s.faultedWith .noFrame (.offset o.toNat)))
    ∧ ∀ p : FrameRecord, s.pending = some p →
      (s.inflight = true ∨ p.word.getLsbD 7 = false → exec (.winWr o v) s = .next (s.faultedWith .noFrame (.offset o.toNat)))
      ∧ (s.inflight = false → p.word.getLsbD 7 = true →
        (s.settled = false → exec (.winWr o v) s = .next (s.faultedWith .unsettledFrame (.offset o.toNat)))
        ∧ (s.settled = true → p.word.getLsbD 13 = false →
          exec (.winWr o v) s = .next (s.faultedWith .windowDirection (.offset o.toNat)))
        ∧ (s.settled = true → p.word.getLsbD 13 = true → o.toNat ≠ p.next →
          exec (.winWr o v) s = .next (s.faultedWith .windowNonSequential (.offset o.toNat)))
        ∧ (s.settled = true → p.word.getLsbD 13 = true → o.toNat = p.next → s.cfg.cachePresent = true → s.csts = true →
          exec (.winWr o v) s = .next (s.faultedWith .cacheActiveDataPhase (.offset o.toNat)))
        ∧ (s.settled = true → p.word.getLsbD 13 = true → o.toNat = p.next → s.cfg.cachePresent = false ∨ s.csts = false →
          exec (.winWr o v) s = .next { s with
            pending := some { p with data := p.data ++ [v], next := p.next + 1 }
            history := s.history ++ [.winWrite o.toNat v]
            pc := s.pcAfterCopy }))

/-- With no recorded fault and the access at its row (or no request in progress): no pending frame or one in flight gives
NO_FRAME(CTRLA); else settled = 0 gives UNSETTLED_FRAME(CTRLA); else INSTREND = 1 gives STALE_COMPLETION_FLAG(CTRLA);
else ENABLE becomes 1, inflight 1, the frame event with the fields of the pending word, opcode, address and data is
appended, then RegWrite(CTRLA, 0x01000002), pc goes from S6_START to S6_DSB, and nothing else changes. (The case of no
request in progress, where the primitive acts and pc stays, is the model's reading of the V vectors, Log 13.)
Rests on R94, Log 13, 95_test_vectors.md 2.3. -/
def Obligations.StartTransfer : Prop :=
  ∀ s : State, s.faults = [] → s.mayAccess .s6Start →
    (s.pending = none ∨ s.inflight = true → exec .start s = .next (s.faultedWith .noFrame (.reg .ctrla)))
    ∧ ∀ p : FrameRecord, s.pending = some p → s.inflight = false →
      (s.settled = false → exec .start s = .next (s.faultedWith .unsettledFrame (.reg .ctrla)))
      ∧ (s.settled = true → s.instrend = true → exec .start s = .next (s.faultedWith .staleCompletionFlag (.reg .ctrla)))
      ∧ (s.settled = true → s.instrend = false →
        let w := p.word
        let e : FrameEvent :=
          { seq := p.seq, opcode := p.opcode, width := w.extractLsb' 0 3, instrEn := w.getLsbD 4, addrEn := w.getLsbD 5,
            optEn := w.getLsbD 6, dataEn := w.getLsbD 7, optLen := w.extractLsb' 8 2,
            addrLen := if w.getLsbD 10 = true then .a32 else .a24,
            addr := if w.getLsbD 5 = false then 0 else if w.getLsbD 10 = true then p.addr else p.addr &&& 0x00FFFFFF,
            optCode := s.instrctrl.extractLsb' 16 8, tfrType := w.extractLsb' 12 2, crMode := w.getLsbD 14,
            ddrEn := w.getLsbD 15, dummy := w.extractLsb' 16 5,
            dir := if w.getLsbD 7 = false then .noData else if w.getLsbD 13 = true then .dirOut else .dirIn,
            data := p.data }
        exec .start s = .next { s with
          enable := true
          inflight := true
          history := s.history ++ [.frame e, .regWrite .ctrla 0x01000002]
          pc := s.pcAfter .s6Start .s6Dsb })

/-- For each of the four frame instructions and all its other fields, with no recorded fault and the access at its row
with the request's frame word (or no request in progress): where the pending frame's word is the instruction's, no
frame is in flight, settled = 1 and INSTREND = 0, it answers the next state that START gives, and the appended frame
event has the instruction's TFRTYPE (0, 1, 2, 3), dir NONE without a data phase and else IN, IN, OUT, OUT, and the
fields of the instruction; where no pending frame has that word it records NO_FRAME(CTRLA). Where WIDTH is not 7, so
that its data lines are given, the event's phases are, in this order, the instruction, address, option, dummy and data
phases that the enable bits and the dummy count include, with their lines, bits and contents. (That a frame
instruction performs the pending frame of its word is Log 14.) (The case of no request in progress, where the
primitive acts and pc stays, is the model's reading of the V vectors, Log 13.)
Rests on R94, R55, R67, Log 14, R53, R56, R57, R58, Log 13, 95_test_vectors.md 2.3. -/
def Obligations.FrameKinds : Prop :=
  ∀ (s : State) (f : FrameFields) (k : (FrameFields → Instr) × BitVec 2 × Dir), s.faults = [] →
    s.mayWrite .s6Start (frameWord k.2.1 f) (s.req.encoded s.cfg) →
    k ∈ [(Instr.frameRead, 0, Dir.dirIn), (.frameReadMemory, 1, .dirIn), (.frameWrite, 2, .dirOut), (.frameWriteMemory, 3, .dirOut)] →
    (s.pending.map (·.word) ≠ some (frameWord k.2.1 f) →
      exec (k.1 f) s = .next (s.faultedWith .noFrame (.reg .ctrla)))
    ∧ ∀ p : FrameRecord, s.pending = some p → p.word = frameWord k.2.1 f →
      let e : FrameEvent :=
        { seq := p.seq, opcode := p.opcode, width := f.width, instrEn := f.instrEn, addrEn := f.addrEn,
          optEn := f.optEn, dataEn := f.dataEn, crMode := f.crMode, ddrEn := f.ddrEn, addrLen := f.addrLen,
          addr := if f.addrEn then f.addrLen.low p.addr else 0, optLen := f.optLen,
          optCode := s.instrctrl.extractLsb' 16 8, tfrType := k.2.1, dummy := f.dummy,
          dir := if f.dataEn then k.2.2 else .noData, data := p.data }
      exec (k.1 f) s = exec .start s
      ∧ (s.inflight = false → s.settled = true → s.instrend = false →
        exec (k.1 f) s = .next { s with
          enable := true
          inflight := true
          history := s.history ++ [.frame e, .regWrite .ctrla 0x01000002]
          pc := s.pcAfter .s6Start .s6Dsb })
      ∧ ∀ a b c : Nat, widthLines f.width = some (a, b, c) → e.phases = some (
          (if f.instrEn then [.instruction a p.opcode] else [])
          ++ (if f.addrEn then [.address b (if f.addrLen = .a32 then 32 else 24) (f.addrLen.low p.addr)] else [])
          ++ (if f.optEn then [.option b (2 ^ f.optLen.toNat) (s.instrctrl.extractLsb' 16 8)] else [])
          ++ (if f.dummy = 0 then [] else [.dummy f.dummy.toNat])
          ++ (if f.dataEn then [.data c k.2.2 p.data] else []))

/-- With no recorded fault, DSB appends Barrier(DSB) and ISB appends Barrier(ISB), pc goes from S6_DSB to S6_ISB and from
S6_ISB to S6_POLL, and nothing else changes. (That a barrier issued out of its row appends its event too, pc staying,
is Log 13.)
Rests on R95, R96, R47, Log 13. -/
def Obligations.Barriers : Prop :=
  ∀ s : State, s.faults = [] →
    exec .dsb s = .next { s with history := s.history ++ [.barrier .dsb], pc := s.pcAfter .s6Dsb .s6Isb }
    ∧ exec .isb s = .next { s with history := s.history ++ [.barrier .isb], pc := s.pcAfter .s6Isb .s6Poll }

/-- With no recorded fault: where a frame is in flight and not wedged, INSTREND becomes 1, inflight 0, pending empty,
Complete(seq) is appended, and nothing else changes; where no frame is in flight or it is wedged, the step is not
enabled and the state stays as it is. Every instruction that makes INSTREND 1 from 0 is COMPLETE. (That a step which
is not enabled is a step that leaves the state as it is, is Log 17.)
Rests on R97, R87, Log 17. -/
def Obligations.FrameCompletion : Prop :=
  (∀ s : State, s.faults = [] →
    (∀ p : FrameRecord, s.pending = some p → s.inflight = true → s.frameWedged p.seq = false →
      exec .complete s = .next { s with
        instrend := true
        inflight := false
        pending := none
        history := s.history ++ [.complete p.seq] })
    ∧ (∀ p : FrameRecord, s.pending = some p → s.frameWedged p.seq = true → exec .complete s = .next s)
    ∧ (s.inflight = false ∨ s.pending = none → exec .complete s = .next s))
  ∧ ∀ (s t : State) (i : Instr), exec i s = .next t → s.instrend = false → t.instrend = true → i = .complete

/-- With no recorded fault and the access at its row (or no request in progress): with INSTREND = 1, RegRead(INTFLAG, v)
is appended, where v has bit 10 set and its other bits drawn (a free value), pc goes from S6_POLL to S6_CLR, one more
free value counts as drawn, and nothing else changes; with INSTREND = 0 the executor has no step and the state stays
as it is, so a frame that never completes is a hang and no fault. (The case of no request in progress is Log 13, that
a held poll is a step that leaves the state as it is, Log 17, the count of draws, Log 19.)
Rests on R98, R87, Log 13, Log 17, Log 19. -/
def Obligations.CompletionPoll : Prop :=
  ∀ s : State, s.faults = [] → s.mayAccess .s6Poll →
    (s.instrend = true →
      exec .rdIntflag s = .next { s with
        history := s.history ++ [.regRead .intflag ((s.drawnBits &&& ~~~0x00000400) ||| 0x00000400)]
        draws := s.draws + 1
        pc := s.pcAfter .s6Poll .s6Clr })
    ∧ (s.instrend = false → exec .rdIntflag s = .next s)

/-- With no recorded fault and the access at its row (or no request in progress): INSTREND becomes 0, RegWrite(INTFLAG,
0x00000400) is appended, pc goes from S6_CLR to S7 with the bracket and to RET without it, and nothing else changes.
(The case of no request in progress, where the primitive acts and pc stays, is the model's reading of the V vectors,
Log 13.)
Rests on R99, Log 13, 95_test_vectors.md 2.3. -/
def Obligations.FlagClear : Prop :=
  ∀ s : State, s.faults = [] → s.mayAccess .s6Clr →
    exec .clrIntflag s = .next { s with
      instrend := false
      history := s.history ++ [.regWrite .intflag 0x00000400]
      pc := s.pcAfter .s6Clr (if s.bracket then .s7 else .ret) }

/-- With no recorded fault and the access at its row (or no request in progress): CACHE_DISABLE makes CEN 0 and appends
RegWrite(CMCC_CTRL, 0), pc going from S2_DIS to S2_POLL; CACHE_ENABLE makes CEN 1 and appends RegWrite(CMCC_CTRL, 1),
pc going from S7 to RET; nothing else changes, CSTS among it. A write of any value v to CMCC_CTRL makes CEN v[0] and
appends RegWrite(CMCC_CTRL, v). (The case of no request in progress, where the primitive acts and pc stays, is the
model's reading of the V vectors, Log 13.)
Rests on R100, R101, R104, Log 13, 95_test_vectors.md 2.3. -/
def Obligations.CacheControlWrites : Prop :=
  ∀ s : State, s.faults = [] →
    (s.mayAccess .s2Dis →
      exec .cacheDisable s = .next { s with
        cen := false
        history := s.history ++ [.regWrite .cmccCtrl 0]
        pc := s.pcAfter .s2Dis .s2Poll })
    ∧ (s.mayAccess .s7 →
      exec .cacheEnable s = .next { s with
        cen := true
        history := s.history ++ [.regWrite .cmccCtrl 1]
        pc := s.pcAfter .s7 .ret })
    ∧ ∀ v : Word, s.writeCmccCtrl v = { s with cen := v.getLsbD 0, history := s.history ++ [.regWrite .cmccCtrl v] }

/-- With no recorded fault and the access at its row (or no request in progress): with CSTS = 0, RegRead(CMCC_SR, 0) is
appended, pc goes from S2_POLL to S2_INV, and nothing else changes; with CSTS = 1 the executor has no step and the
state stays as it is. (The case of no request in progress is Log 13, that a held poll is a step that leaves the state
as it is, Log 17.)
Rests on R102, R87, Log 13, Log 17. -/
def Obligations.CacheCleanPoll : Prop :=
  ∀ s : State, s.faults = [] → s.mayAccess .s2Poll →
    (s.csts = false →
      exec .rdCmccSr s = .next { s with history := s.history ++ [.regRead .cmccSr 0], pc := s.pcAfter .s2Poll .s2Inv })
    ∧ (s.csts = true → exec .rdCmccSr s = .next s)

/-- With no recorded fault and the access at its row (or no request in progress): with CSTS = 1,
CACHE_MAINT_WHILE_ACTIVE(CMCC_MAINT0) is recorded and nothing else changes; with CSTS = 0, lines becomes empty,
CacheInvalidate is appended, pc goes from S2_INV to S3_OP, and nothing else changes. (The case of no request in
progress, where the primitive acts and pc stays, is the model's reading of the V vectors, Log 13.)
Rests on R103, Log 13, 95_test_vectors.md 2.3. -/
def Obligations.CacheInvalidate : Prop :=
  ∀ s : State, s.faults = [] → s.mayAccess .s2Inv →
    (s.csts = true → exec .cacheInvalidate s = .next (s.faultedWith .cacheMaintWhileActive (.reg .cmccMaint0)))
    ∧ (s.csts = false →
      exec .cacheInvalidate s = .next { s with
        lines := []
        history := s.history ++ [.cacheInvalidate]
        pc := s.pcAfter .s2Inv .s3Op })

/-- With no recorded fault: where CSTS differs from CEN, and CEN is 1 or the n-th disable is not wedged (n the number of
RegWrite(CMCC_CTRL, 0) in the history before the latest one), CSTS becomes CEN, CacheStatus(CSTS) is appended, and
nothing else changes; otherwise the step is not enabled and the state stays as it is. (That a step which is not
enabled leaves the state as it is, is Log 17; that n is 0 where the history has no disable, Log 27.)
Rests on R105, Log 17, Log 27. -/
def Obligations.CacheStatusChange : Prop :=
  ∀ s : State, s.faults = [] →
    let n := s.history.count (.regWrite .cmccCtrl 0x00000000) - 1
    (s.csts ≠ s.cen → s.cen = true ∨ s.cacheWedged n = false →
      exec .cacheSettle s = .next { s with csts := s.cen, history := s.history ++ [.cacheStatus s.cen] })
    ∧ (s.csts = s.cen ∨ (s.cen = false ∧ s.cacheWedged n = true) → exec .cacheSettle s = .next s)

/-- INSTRCTRL, INSTRADDR, INSTRFRAME and CMCC_CTRL read the value last written, that of the last RegWrite event of the
register in the history of a state that the history determines, else the launch value (of CMCC_CTRL, bit 0 of it);
CTRLA reads ENABLE in bit 1 and 0 elsewhere; INTFLAG reads INSTREND in bit 10 and the drawn bits elsewhere, INSTREND
being 1 from a Complete event to a write with bit 10 set; CMCC_SR reads in bit 0 what the last CacheStatus event
reported, else the launch value, and 0 elsewhere; CMCC_MAINT0 reads 0. (What each returns, no more: of the effects of
reads this says nothing.)
Rests on R106, R16, R17, R18, R19, R20, R22, R23, R24, R91, R105. -/
def Obligations.RegisterReads : Prop :=
  ∀ (s : State) (drawn : Word),
    s.readReg drawn .ctrla = (if s.enable then 0x00000002 else 0) ∧ s.readReg drawn .cmccMaint0 = 0
    ∧ (∀ i < 32, (s.readReg drawn .intflag).getLsbD i = if i = 10 then s.instrend else drawn.getLsbD i)
    ∧ s.readReg drawn .cmccSr = (if s.csts then 1 else 0)
    ∧ (s.view = s.replay →
      let last (r : Reg) (atLaunch : Word) : Word := s.history.foldl
        (fun v e => match e with
          | .regWrite r' w => if r' = r then w else v
          | _ => v) atLaunch
      s.readReg drawn .instrctrl = last .instrctrl 0 ∧ s.readReg drawn .instraddr = last .instraddr 0
      ∧ s.readReg drawn .instrframe = last .instrframe 0
      ∧ s.readReg drawn .cmccCtrl = last .cmccCtrl (if s.cfg.cenAtLaunch then 1 else 0) &&& 1
      ∧ (s.readReg drawn .intflag).getLsbD 10 = s.history.foldl
        (fun v e => match e with
          | .complete _ => true
          | .regWrite .intflag w => v && !w.getLsbD 10
          | _ => v) false
      ∧ s.readReg drawn .cmccSr = s.history.foldl
        (fun v e => match e with
          | .cacheStatus c => if c then 1 else 0
          | _ => v) (if s.cfg.cenAtLaunch then 1 else 0))

/-- With no recorded fault: with busy = 1, REENTRANT_CALL(r) is recorded and nothing else changes; with busy = 0, req
becomes r, rx empty, busy 1, Request(r) is appended, pc becomes CHECK, and nothing else changes, for every request.
Formalises R108. -/
def Obligations.Submission : Prop :=
  ∀ (s : State) (r : Request), s.faults = [] →
    (s.busy = true → exec (.submit r) s = .next (s.faultedWith .reentrantCall (.request r)))
    ∧ (s.busy = false →
      exec (.submit r) s = .next { s with
        req := r
        rx := []
        busy := true
        history := s.history ++ [.request r]
        pc := .check })

/-- For all operands, each template (writeCommand with and without bytes) does exactly what SUBMIT of the request of its
rule does: runCommand, readCommand, writeCommand and eraseCommand with width Single, no dummy cycles and base type
Read; readMemory and writeMemory with opcode P_QREAD_OPCODE or P_QPROG_OPCODE, dummy count P_QREAD_DUMMY or 0, width
Quad, direction ReadMemory or WriteMemory; optOut the nocache mark. With no recorded fault and busy = 0 it answers the
next state with that request submitted; with busy = 1 it records REENTRANT_CALL. (The incoming contents of a receive
buffer, zeros, are the model's choice, Log 24.)
Rests on R123, R124, R125, R126, R127, R128, R129, R130, R66, Log 24. -/
def Obligations.TemplatesSubmitTheirRequest : Prop :=
  ∀ (s : State) (op : Byte) (len a : Word) (bytes : List Byte) (nocache : Bool),
    let d (hasAddress hasData : Bool) : Descriptor :=
      { opcode := op, hasAddress, hasData, dummyCycles := 0, ioWidth := .single, direction := .read }
    let qread : Descriptor := ⟨s.cfg.qreadOpcode, true, true, s.cfg.qreadDummy.toNat, .quad, .readMemory⟩
    let qprog : Descriptor := ⟨s.cfg.qprogOpcode, true, true, 0, .quad, .writeMemory⟩
    ∀ k : Instr × Request,
      k ∈ [(.runCommand op nocache, ⟨d false false, 0, .noBuffer, [], 0, nocache⟩),
        (.readCommand op len nocache, ⟨d false true, 0, .rx, List.replicate len.toNat 0, len, nocache⟩),
        (.writeCommand op bytes nocache, ⟨d false true, 0, .tx, bytes, BitVec.ofNat 32 bytes.length, nocache⟩),
        (.writeCommandLen0 op nocache, ⟨d false true, 0, .tx, [], 0, nocache⟩),
        (.eraseCommand op a nocache, ⟨d true false, a, .noBuffer, [], 0, nocache⟩),
        (.readMemory a len nocache, ⟨qread, a, .rx, List.replicate len.toNat 0, len, nocache⟩),
        (.writeMemory a bytes nocache, ⟨qprog, a, .tx, bytes, BitVec.ofNat 32 bytes.length, nocache⟩)] →
      exec k.1 s = exec (.submit k.2) s
      ∧ (s.faults = [] → s.busy = false → exec k.1 s = .next (s.submitted k.2))
      ∧ (s.faults = [] → s.busy = true → exec k.1 s = .next (s.faultedWith .reentrantCall (.request k.2)))

/-- For all parameters and requests: WF1 and WF3 hold by type; WF2, WF4 to WF9 hold exactly under the conditions the table
gives, with off the address of an addressed request and 0 otherwise, sums taken without wrapping, and t the effective
type; firstFailing is the first check in the order WF1 to WF9 that does not hold, and there is none exactly when all
nine hold.
Formalises R73. -/
def Obligations.WellFormednessChecks : Prop :=
  ∀ (p : Params) (r : Request),
    let d := r.instruction
    let off : Word := if d.hasAddress = true then r.address else 0
    let t := effectiveType d.direction (r.role == .tx) r.length
    (r.passes p .wf1 = true ∧ r.passes p .wf3 = true)
    ∧ (r.passes p .wf2 = true ↔ d.dummyCycles ≤ 31)
    ∧ (r.passes p .wf4 = true ↔ (d.hasData = false → r.length = 0))
    ∧ (r.passes p .wf5 = true ↔
      (r.role = .noBuffer → r.length = 0 ∧ r.buffer = []) ∧ (r.role ≠ .noBuffer → r.buffer.length = r.length.toNat))
    ∧ (r.passes p .wf6 = true ↔ (d.hasAddress = true → r.address.toNat < 2 ^ (if p.addrLen = .a32 then 32 else 24)))
    ∧ (r.passes p .wf7 = true ↔ off.toNat + r.length.toNat ≤ p.windowSize)
    ∧ (r.passes p .wf8 = true ↔ (0 < r.length.toNat → (t.getLsbD 1 = true ↔ r.role = .tx)))
    ∧ (r.passes p .wf9 = true ↔ (d.direction = .readMemory ∨ d.direction = .writeMemory → d.hasAddress = true))
    ∧ (r.firstFailing p = none ↔ ∀ c : Check, r.passes p c = true)
    ∧ ∀ c : Check, r.firstFailing p = some c ↔
      ∃ before after : List Check, [Check.wf1, .wf2, .wf3, .wf4, .wf5, .wf6, .wf7, .wf8, .wf9] = before ++ c :: after
        ∧ (∀ b ∈ before, r.passes p b = true) ∧ r.passes p c = false

/-- With no recorded fault and pc = CHECK: where a check fails, EXEC records MALFORMED_REQUEST with the first failing
check; else where ENABLE = 0 it records NOT_ENABLED with the request; else pc becomes S1. Nothing else changes in any
case, and the opcode is not looked at: a request with another opcode fails or passes alike.
Formalises R109. -/
def Obligations.EntryChecks : Prop :=
  (∀ s : State, s.faults = [] → s.pc = .check →
    (∀ c : Check, s.req.firstFailing s.cfg = some c → exec .exec s = .next (s.faultedWith .malformedRequest (.check c)))
    ∧ (s.req.firstFailing s.cfg = none → s.enable = false → exec .exec s = .next (s.faultedWith .notEnabled (.request s.req)))
    ∧ (s.req.firstFailing s.cfg = none → s.enable = true → exec .exec s = .next { s with pc := .s1 }))
  ∧ ∀ (p : Params) (r : Request) (op : Byte),
    ({ r with instruction := { r.instruction with opcode := op } } : Request).firstFailing p = r.firstFailing p

/-- With no recorded fault and pc = S1: ptr becomes P_WINDOW_BASE + off, off the address of an addressed request and 0
otherwise, bracket becomes P_CACHE_PRESENT and not optOut, pc becomes S2_DIS with the bracket and S3_OP without it,
and nothing else changes. Where the request passes WF7 and P_WINDOW_BASE + P_WINDOW_SIZE is at most 2^32 (R7), the sum
does not wrap if the request moves a byte, or off lies inside the window, or the window ends below 2^32; and wherever
a byte i < length is moved, its address does not wrap either. In the one case left, length 0 and off just past a
window that ends at 2^32, ptr is 0 and no access uses it (Log 34).
Rests on R110, R7, R73, R115, Log 34. -/
def Obligations.WindowPointer : Prop :=
  ∀ s : State, s.faults = [] → s.pc = .s1 →
    let off : Word := if s.req.instruction.hasAddress = true then s.req.address else 0
    let bracket := s.cfg.cachePresent && !s.req.optOut
    exec .exec s = .next { s with
      ptr := s.cfg.windowBase + off
      bracket := bracket
      pc := if bracket then .s2Dis else .s3Op }
    ∧ (s.req.passes s.cfg .wf7 = true → s.cfg.windowBase.toNat + s.cfg.windowSize ≤ 2 ^ 32 →
      (0 < s.req.length.toNat ∨ off.toNat < s.cfg.windowSize ∨ s.cfg.windowBase.toNat + s.cfg.windowSize < 2 ^ 32 →
        (s.cfg.windowBase + off).toNat = s.cfg.windowBase.toNat + off.toNat)
      ∧ (∀ i < s.req.length.toNat, (s.cfg.windowBase + off).toNat + i < 2 ^ 32)
      ∧ (s.req.length = 0 → off.toNat = s.cfg.windowSize → s.cfg.windowBase.toNat + s.cfg.windowSize = 2 ^ 32 →
        s.cfg.windowBase + off = 0))

/-- At each row of the executor's step table EXEC does exactly what the row's primitive does: S2_DIS, S2_POLL, S2_INV,
S3_OP with the opcode, S3_ADDR with the address (0 without an address phase), S3_FRAME with ENCODE(d, role == TX,
length), S4, S5(i) with offset ptr + i - P_WINDOW_BASE as a window write of buffer byte i where word[13] = 1 and a
window read otherwise, S6_START, S6_DSB, S6_ISB, S6_POLL, S6_CLR, S7. In IDLE it waits: the state stays as it is.
Rests on R25, R107, R111, R113, R114, R115, R116, R117, Log 12. -/
def Obligations.ExecIssuesItsRow : Prop :=
  ∀ s : State,
    let r := s.req
    let off : Word := if r.instruction.hasAddress = true then r.address else 0
    (s.pc = .idle → s.faults = [] → exec .exec s = .next s)
    ∧ (s.pc = .s2Dis → exec .exec s = exec .cacheDisable s)
    ∧ (s.pc = .s2Poll → exec .exec s = exec .rdCmccSr s)
    ∧ (s.pc = .s2Inv → exec .exec s = exec .cacheInvalidate s)
    ∧ (s.pc = .s3Op → exec .exec s = exec (.wrInstrctrl r.instruction.opcode) s)
    ∧ (s.pc = .s3Addr → exec .exec s = exec (.wrInstraddr off) s)
    ∧ (s.pc = .s3Frame →
      exec .exec s = exec (.wrInstrframe (encodeFrame s.cfg.addrLen r.instruction (r.role == .tx) r.length)) s)
    ∧ (s.pc = .s4 → exec .exec s = exec .rdInstrframe s)
    ∧ (∀ (i : Nat) (b : Byte) (o : Word), s.pc = .s5 i → o.toNat = (s.ptr - s.cfg.windowBase).toNat + i →
      (s.word.getLsbD 13 = true → r.buffer[i]? = some b → exec .exec s = exec (.winWr o b) s)
      ∧ (s.word.getLsbD 13 = false → exec .exec s = exec (.winRd o) s))
    ∧ (s.pc = .s6Start → exec .exec s = exec .start s)
    ∧ (s.pc = .s6Dsb → exec .exec s = exec .dsb s)
    ∧ (s.pc = .s6Isb → exec .exec s = exec .isb s)
    ∧ (s.pc = .s6Poll → exec .exec s = exec .rdIntflag s)
    ∧ (s.pc = .s6Clr → exec .exec s = exec .clrIntflag s)
    ∧ (s.pc = .s7 → exec .exec s = exec .cacheEnable s)

/-- With no recorded fault and pc = RET there is a result res such that EXEC sets result to res, appends Return(res), sets
busy 0 and pc IDLE, and changes no register, no controller or cache state and no request field; res is OK(rx) for role
RX and OK([]) otherwise, or FAIL, and FAIL only where P_FAILURE_ADMITTED (the draw is a free value, counted in draws).
(That OK or FAIL is drawn as a free value of the model's draw counter is Log 20, that the counter goes up by one with
each draw, Log 19.)
Rests on R118, Log 19, Log 20. -/
def Obligations.ReturnResult : Prop :=
  ∀ s : State, s.faults = [] → s.pc = .ret →
    ∃ res : Result,
      (res = .ok (if s.req.role = .rx then s.rx else []) ∨ (s.cfg.failureAdmitted = true ∧ res = .fail))
      ∧ exec .exec s = .next { s with
        result := some res
        history := s.history ++ [.returned res]
        busy := false
        pc := .idle
        draws := if s.cfg.failureAdmitted then s.draws + 1 else s.draws }

/-- With no recorded fault: with busy = 1, REENTRANT_CALL(hz) is recorded and nothing else changes; with busy = 0, clockHz
becomes hz, 0 included, and nothing else changes: no register and no history event.
Formalises R122. -/
def Obligations.ClockRate : Prop :=
  ∀ (s : State) (hz : Nat), s.faults = [] →
    (s.busy = true → exec (.setclk hz) s = .next (s.faultedWith .reentrantCall (.rate hz)))
    ∧ (s.busy = false → exec (.setclk hz) s = .next { s with clockHz := hz })

/-- With no recorded fault and busy = 1: each of the four frame instructions and the thirteen register and window
accesses, for all operands, sets the refused mark and changes nothing else where it is not the executor's access: at a
pc that is not its row of the step table, or at its row with an operand the request does not give it (another opcode,
address, frame word, offset or byte, or a window access in the other direction). (That such an access is another
agent's is Log 13.)
Rests on R45, R111, R113, R115, R121, R140, Log 13. -/
def Obligations.AccessOutOfRowIsRefused : Prop :=
  ∀ (s : State) (i : Instr), s.faults = [] → s.busy = true → i.isAccess = true →
    let r := s.req
    let word := encodeFrame s.cfg.addrLen r.instruction (r.role == .tx) r.length
    let place (o : Word) (n : Nat) : Prop := o.toNat = (s.ptr - s.cfg.windowBase).toNat + n
    (ownRow i s.pc = false
      ∨ (∃ op, i = .wrInstrctrl op ∧ op ≠ r.instruction.opcode)
      ∨ (∃ a, i = .wrInstraddr a ∧ a ≠ if r.instruction.hasAddress = true then r.address else 0)
      ∨ (∃ w, i = .wrInstrframe w ∧ w ≠ word)
      ∨ (∃ f, (i = .frameRead f ∧ frameWord 0 f ≠ word) ∨ (i = .frameReadMemory f ∧ frameWord 1 f ≠ word)
          ∨ (i = .frameWrite f ∧ frameWord 2 f ≠ word) ∨ (i = .frameWriteMemory f ∧ frameWord 3 f ≠ word))
      ∨ (∃ o n, i = .winRd o ∧ s.pc = .s5 n ∧ (s.word.getLsbD 13 = true ∨ ¬place o n))
      ∨ (∃ o v n, i = .winWr o v ∧ s.pc = .s5 n ∧ (s.word.getLsbD 13 = false ∨ ¬place o n ∨ r.buffer[n]? ≠ some v))) →
    exec i s = .next { s with refused := true }

/-- Whatever the state: if a step answers a next state, its parameters are the same, P_ADDR_LEN among them, and its
history is the old one followed by at most two events; two only where a frame is performed, the frame event and then
RegWrite(CTRLA, 0x01000002). And the recorded clock rate changes only by SETCLK.
Rests on R35, R7, R31, R122. -/
def Obligations.ParametersStayAndHistoryGrows : Prop :=
  (∀ s t : State, step s = .next t →
    t.cfg = s.cfg
    ∧ ∃ es : List Event, t.history = s.history ++ es
      ∧ (es.length ≤ 1 ∨ ∃ e, es = [.frame e, .regWrite .ctrla 0x01000002]))
  ∧ ∀ (s t : State) (i : Instr), exec i s = .next t → (∀ hz, i ≠ .setclk hz) → t.clockHz = s.clockHz

/-- Both are empty at launch. Whatever the state: if a step answers a next state, its faults are the old ones, or the old
ones and one more, and the refused mark is still set if it was. A state with a recorded fault or the refused mark
satisfies neither CleanEntry nor the end of a run.
Formalises R34. -/
def Obligations.FaultsAndRefusedOnlyGrow : Prop :=
  (∀ p : Params, (State.launch p).faults = [] ∧ (State.launch p).refused = false)
  ∧ (∀ s t : State, step s = .next t →
    (t.faults = s.faults ∨ ∃ f, t.faults = s.faults ++ [f]) ∧ (s.refused = true → t.refused = true))
  ∧ ∀ s : State, s.faults ≠ [] ∨ s.refused = true → s.runEnded = false ∧ s.cleanEntry = false

/-- Whatever the state and instruction: if the next state has another list of faults, then exactly one fault was added,
with the executor's pc, and every other field is unchanged: no register, controller, cache, executor or history
change. From the state with the fault no instruction and no step answers a next state, and it is not a successful end.
Formalises R137. -/
def Obligations.FaultLeavesEverythingElse : Prop :=
  ∀ (s t : State) (i : Instr), exec i s = .next t → t.faults ≠ s.faults →
    (∃ (code : FaultCode) (info : FaultInfo), t = { s with faults := s.faults ++ [{ code, info, pc := s.pc }] })
    ∧ (∀ (j : Instr) (u : State), exec j t ≠ .next u) ∧ (∀ u : State, step t ≠ .next u) ∧ t.runEnded = false

/-- Whatever the state and instruction, with a next state: INSTRCTRL changes only by WR_INSTRCTRL or EXEC at S3_OP;
INSTRADDR only by WR_INSTRADDR or EXEC at S3_ADDR; INSTRFRAME and nextSeq only by WR_INSTRFRAME or EXEC at S3_FRAME;
settled only by those and by RD_INSTRFRAME or EXEC at S4; ENABLE only by START, a frame instruction or EXEC at
S6_START; CEN only by CACHE_DISABLE, CACHE_ENABLE or EXEC at S2_DIS or S7; CSTS only by CACHE_SETTLE; lines only by
CACHE_INVALIDATE or EXEC at S2_INV; INSTREND only by COMPLETE, CLR_INTFLAG or EXEC at S6_CLR; encOut only by ENCODE;
the refused mark only by an access. (encOut is the model's own output port, Log 16; what counts as another agent's
access is Log 13.)
Rests on R18, R28, R29, R42, R90, R97, R106, R140, Log 13, Log 16. -/
def Obligations.RegistersChangeOnlyByTheirWrites : Prop :=
  ∀ (s t : State) (i : Instr), exec i s = .next t →
    let performs := i = .start ∨ ∃ f, i = .frameRead f ∨ i = .frameReadMemory f ∨ i = .frameWrite f ∨ i = .frameWriteMemory f
    (t.instrctrl = s.instrctrl ∨ (∃ op, i = .wrInstrctrl op) ∨ (i = .exec ∧ s.pc = .s3Op))
    ∧ (t.instraddr = s.instraddr ∨ (∃ a, i = .wrInstraddr a) ∨ (i = .exec ∧ s.pc = .s3Addr))
    ∧ ((t.instrframe = s.instrframe ∧ t.nextSeq = s.nextSeq) ∨ (∃ w, i = .wrInstrframe w) ∨ (i = .exec ∧ s.pc = .s3Frame))
    ∧ (t.settled = s.settled ∨ (∃ w, i = .wrInstrframe w) ∨ i = .rdInstrframe ∨ (i = .exec ∧ (s.pc = .s3Frame ∨ s.pc = .s4)))
    ∧ (t.enable = s.enable ∨ performs ∨ (i = .exec ∧ s.pc = .s6Start))
    ∧ (t.cen = s.cen ∨ i = .cacheDisable ∨ i = .cacheEnable ∨ (i = .exec ∧ (s.pc = .s2Dis ∨ s.pc = .s7)))
    ∧ (t.csts = s.csts ∨ i = .cacheSettle)
    ∧ (t.lines = s.lines ∨ i = .cacheInvalidate ∨ (i = .exec ∧ s.pc = .s2Inv))
    ∧ (t.instrend = s.instrend ∨ i = .complete ∨ i = .clrIntflag ∨ (i = .exec ∧ s.pc = .s6Clr))
    ∧ (t.encOut = s.encOut ∨ ∃ d txPresent length, i = .encode d txPresent length)
    ∧ (t.refused = s.refused ∨ i.isAccess = true)

/-- Whatever the state and instruction, with a next state: req and busy from 0 to 1 only by a submission; busy from 1 to 0
and result only by EXEC at RET; ptr and bracket only by EXEC at S1; word only by WR_INSTRFRAME or EXEC, at S3_FRAME;
rx only by a submission, or by WIN_RD or EXEC at a copy row; pc only by a submission, by EXEC, or by a primitive or a
barrier at its own row of the step table; the script by none. (The script is the model's own field, Log 11.)
Rests on R25, R26, R107, R108, R110, R113, R115, R118, R121, R87, Log 11. -/
def Obligations.ExecutorFieldsChangeOnlyByTheirSteps : Prop :=
  ∀ (s t : State) (i : Instr), exec i s = .next t →
    ((t.req = s.req ∧ (s.busy = false → t.busy = false)) ∨ i.submits = true)
    ∧ ((t.result = s.result ∧ (s.busy = true → t.busy = true)) ∨ (i = .exec ∧ s.pc = .ret))
    ∧ ((t.ptr = s.ptr ∧ t.bracket = s.bracket) ∨ (i = .exec ∧ s.pc = .s1))
    ∧ (t.word = s.word ∨ (s.pc = .s3Frame ∧ (i = .exec ∨ ∃ w, i = .wrInstrframe w)))
    ∧ (t.rx = s.rx ∨ i.submits = true ∨ ((∃ n, s.pc = .s5 n) ∧ (i = .exec ∨ ∃ o, i = .winRd o)))
    ∧ (t.pc = s.pc ∨ (i.submits = true ∧ s.busy = false) ∨ i = .exec ∨ ownRow i s.pc = true ∨ (i = .dsb ∧ s.pc = .s6Dsb)
        ∨ (i = .isb ∧ s.pc = .s6Isb))
    ∧ t.script = s.script

/-- For all parameters in their ranges the state after reset is sound and coherent, with and without bring-up, and so is
State.reset.
Rests on R149, R150, R29, R61. -/
def Obligations.InvariantsHoldAtReset : Prop :=
  (∀ p : Params, p.wf = true →
    (State.launch p).sound = true ∧ (State.launch p).bringUp.sound = true
    ∧ (State.launch p).coherent = true ∧ (State.launch p).bringUp.coherent = true)
  ∧ State.reset.sound = true ∧ State.reset.coherent = true

/-- From every sound state, whatever the instruction, its operands and the script: if exec or step answers a next state,
it is sound. Sound: INSTRCTRL[31:8] = 0, INSTRFRAME has no reserved encoding, a pending frame agrees with INSTRFRAME,
INSTRCTRL and INSTRADDR, has the latest number, a next offset that counts its bytes and no data without a data phase,
a frame in flight is pending, busy = (pc is not IDLE), at most one fault, lines sorted without repeats, and the frames
performed are numbered 0, 1, 2, ... with nextSeq counting them and the frame not yet performed.
Rests on R20, R21, R26, R29, R30, R61, R90, R97, R121, R137. -/
def Obligations.SoundKeptByEveryStep : Prop :=
  (∀ (s t : State) (i : Instr), s.sound = true → exec i s = .next t → t.sound = true)
  ∧ ∀ s t : State, s.sound = true → step s = .next t → t.sound = true

/-- From every sound state, whatever the instruction: the frames of the next state's history are those of the old one, or
those and one more whose seq is their number; and its opcode and address are those INSTRCTRL and INSTRADDR hold.
Rests on R121, R29, R94. -/
def Obligations.FrameNumberIsFramesBefore : Prop :=
  ∀ (s t : State) (i : Instr), s.sound = true → exec i s = .next t →
    framesOf t.history = framesOf s.history
    ∨ ∃ e : FrameEvent, framesOf t.history = framesOf s.history ++ [e] ∧ e.seq = (framesOf s.history).length
      ∧ e.opcode = s.instrctrl.extractLsb' 0 8 ∧ e.optCode = 0
      ∧ e.addr = (if e.addrEn then e.addrLen.low s.instraddr else 0)

/-- The view of a state (INSTRCTRL, INSTRADDR, INSTRFRAME, settled, INSTREND, inflight, nextSeq, CEN, CSTS, lines, busy,
req, result) is the replay of its history from the launch state: this holds after reset, with and without bring-up,
and from every state of which it holds, every instruction and every step keeps it. So each register holds the value
last written, INSTREND is set by completion and cleared by a 1 in bit 10 only, and nothing changes without its event.
Rests on R18, R22, R26, R28, R29, R30, R31, R97, R103, R105, R106. -/
def Obligations.HistoryDeterminesState : Prop :=
  (∀ p : Params, (State.launch p).view = (State.launch p).replay ∧ (State.launch p).bringUp.view = (State.launch p).bringUp.replay)
  ∧ (∀ (s t : State) (i : Instr), s.view = s.replay → exec i s = .next t → t.view = t.replay)
  ∧ ∀ s t : State, s.view = s.replay → step s = .next t → t.view = t.replay

/-- From every coherent state, whichever agent of the block or the caller steps (EXEC, COMPLETE, CACHE_SETTLE, SUBMIT, a
template, SETCLK, ENCODE, any operands), the next state is coherent: at each pc the request is the one CHECK passed,
the registers hold what the earlier rows wrote, the pending frame is the request's with the bytes moved so far, the
cache is off inside the bracket, and INSTREND is set only between completion and clear.
Rests on R25, R45, R46, R109, R110, R111, R113, R115, R116, R117, R121. -/
def Obligations.CoherentKeptByAgents : Prop :=
  ∀ (s t : State) (i : Instr), s.coherent = true → i.ofAgent = true → exec i s = .next t → t.coherent = true

/-- From every coherent state with no recorded fault, whichever agent of the block or the caller steps: the next state has
no fault, or one fault that is MALFORMED_REQUEST, REENTRANT_CALL, NOT_ENABLED or CACHE_ACTIVE_DATA_PHASE, the first
and third only at CHECK, the second only while a request is in progress, the last only at a copy row of a request
without the bracket. The refused mark is not set. Coherence holds from reset (InvariantsHoldAtReset) and is kept
(CoherentKeptByAgents).
Rests on R138, R112, R115, R116. -/
def Obligations.OnlyReachableFaults : Prop :=
  ∀ (s t : State) (i : Instr), s.coherent = true → i.ofAgent = true → exec i s = .next t →
    t.refused = s.refused
    ∧ (t.faults = [] ∨ ∃ f : FaultEntry, t.faults = [f] ∧ f.pc = s.pc ∧ f.code.reachable = true
      ∧ (f.code = .malformedRequest ∨ f.code = .notEnabled → s.pc = .check)
      ∧ (f.code = .reentrantCall → s.busy = true)
      ∧ (f.code = .cacheActiveDataPhase → s.bracket = false ∧ s.req.optOut = true ∧ s.csts = true ∧ ∃ n, s.pc = .s5 n))

/-- From every coherent state with no recorded fault: EXEC at S2_INV empties lines; and wherever EXEC moves a byte of a
bracketed request, CSTS = 0 and CEN = 0, and the byte moved is the flash's (a read) or the buffer's (a write), never a
cached copy. No instruction ever adds to lines.
Formalises R49. -/
def Obligations.BracketKeepsCacheOff : Prop :=
  (∀ s : State, s.coherent = true → s.faults = [] → s.pc = .s2Inv → ∃ t, exec .exec s = .next t ∧ t.lines = [] ∧ t.faults = [])
  ∧ (∀ (s : State) (n : Nat), s.coherent = true → s.faults = [] → s.pc = .s5 n → s.bracket = true →
    ∃ (t : State) (p : FrameRecord) (b : Byte), exec .exec s = .next t ∧ s.csts = false ∧ s.cen = false ∧ s.pending = some p
      ∧ t.pending = some { p with data := p.data ++ [b], next := p.next + 1 } ∧ t.faults = []
      ∧ ((s.req.effectiveType.getLsbD 1 = true ∧ s.req.buffer[n]? = some b)
        ∨ (s.req.effectiveType.getLsbD 1 = false ∧ b = s.flashByte p.seq n ∧ t.rx = s.rx ++ [b])))
  ∧ ∀ (s t : State) (i : Instr), exec i s = .next t → ∀ o ∈ t.lines, o ∈ s.lines

/-- From every coherent state with a request in progress that opts out (or with no cache present): EXEC leaves CEN, CSTS
and lines alone and appends no event of the cache; from S1 it goes to S3_OP and from S6_CLR to RET; and at a copy row
with the cache present and active it faults CACHE_ACTIVE_DATA_PHASE at the byte's offset.
Rests on R112, R50. -/
def Obligations.OptOutLeavesCacheAlone : Prop :=
  ∀ (s t : State), s.coherent = true → s.busy = true → s.req.optOut = true ∨ s.cfg.cachePresent = false →
    exec .exec s = .next t →
    t.cen = s.cen ∧ t.csts = s.csts ∧ t.lines = s.lines
    ∧ (∀ es, t.history = s.history ++ es → ∀ e ∈ es, e ≠ .cacheInvalidate ∧ (∀ v, e ≠ .regWrite .cmccCtrl v)
      ∧ (∀ v, e ≠ .regRead .cmccSr v) ∧ ∀ c, e ≠ .cacheStatus c)
    ∧ (s.pc = .s1 → t.pc = .s3Op) ∧ (s.pc = .s6Clr → t.pc = .ret)
    ∧ (∀ n, s.pc = .s5 n → s.cfg.cachePresent = true → s.csts = true →
      t = s.faultedWith .cacheActiveDataPhase (.offset (s.req.off.toNat + n)))

/-- From every state with no recorded fault where the executor is at S6_POLL, a wedged frame is in flight and INSTREND =
0, any number of steps of the executor, the controller and the cache, in any order, ends with the executor still at
S6_POLL, the frame still in flight, INSTREND still 0, no fault and no result. The same at S2_POLL with CEN = 0, CSTS =
1 and the latest disable wedged: CSTS stays 1. (That a held poll and a step that is not enabled leave the state as it
is, is Log 17; disableIndex where no disable was recorded, Log 27.)
Rests on R97, R98, R102, R105, R120, R135, Log 17, Log 27. -/
def Obligations.WedgesHangWithoutFault : Prop :=
  ∀ (steps : List Instr) (s : State), s.faults = [] → (∀ i ∈ steps, i = .exec ∨ i = .complete ∨ i = .cacheSettle) →
    (∀ p : FrameRecord, s.pc = .s6Poll → s.pending = some p → s.inflight = true → s.instrend = false →
      s.frameWedged p.seq = true →
      ∃ t, runInstrs steps s = .next t ∧ t.pc = .s6Poll ∧ t.pending = some p ∧ t.inflight = true ∧ t.instrend = false
        ∧ t.faults = [] ∧ t.busy = s.busy ∧ t.result = s.result)
    ∧ (s.pc = .s2Poll → s.cen = false → s.csts = true → s.cacheWedged s.disableIndex = true →
      ∃ t, runInstrs steps s = .next t ∧ t.pc = .s2Poll ∧ t.cen = false ∧ t.csts = true
        ∧ t.faults = [] ∧ t.busy = s.busy ∧ t.result = s.result)

/-- For all parameters in their ranges, every ready state and every well-formed request whose frame is not wedged (nor,
with an active cache and the bracket, its disable; and without the bracket the cache is absent or inactive where bytes
are moved): the request's steps, in the order of the schedule of 95_test_vectors.md part 0, end in a ready state; the
micro-operations added to the trace are R119's, in order and no other (9 + length, plus 4 with the bracket); exactly
one frame event is added, with the fields of the request, its frame word and the moved bytes; and the result is OK
with the bytes received (role RX) or OK([]), or FAIL where failure is admitted. (A cache step of the schedule that is
not enabled leaves the state as it is, Log 17.)
Rests on R107, R119, R118, R120, R94, R111, R115, R116, R117, 95_test_vectors.md 0, Log 17. -/
def Obligations.RequestRunsToCompletion : Prop :=
  ∀ (s : State) (r : Request), s.cfg.wf = true → s.ready = true → r.wellFormed s.cfg = true →
    s.frameWedged s.nextSeq = false →
    (r.bracketed s.cfg = true → s.csts = true → s.cacheWedged (s.history.count (.regWrite .cmccCtrl 0)) = false) →
    (r.bracketed s.cfg = false → 0 < r.length.toNat → s.cfg.cachePresent = false ∨ s.csts = false) →
    ∃ (t : State) (received : List Byte), runInstrs (scheduleOf s.cfg r) s = .next t
      ∧ t.ready = true ∧ t.refused = s.refused
      ∧ received.length = (if r.effectiveType.getLsbD 1 then 0 else r.length.toNat)
      ∧ traceOf t.history = traceOf s.history ++ expectedTrace s.cfg r received
      ∧ (expectedTrace s.cfg r received).length = 9 + r.length.toNat + (if r.bracketed s.cfg then 4 else 0)
      ∧ framesOf t.history = framesOf s.history ++ [expectedFrame s.cfg r s.nextSeq received]
      ∧ (t.result = some (.ok (if r.role = .rx then received else []))
        ∨ (s.cfg.failureAdmitted = true ∧ t.result = some .fail))

/-- Every infinite run of steps of the block's agents and the caller (any schedule, SETCLK and ENCODE among them) that
starts in a coherent state with a request in progress, is weakly fair, and on which no pending frame and no disable of
an active cache is wedged, comes to a state at RET where EXEC is taken: the request returns, with a result, and until
then it is the one in progress. An infinite run records no fault, since none has a step after one. (That the
executor's own step is under the fairness assumption is Log 35; that it may be held while it waits, Log 17.)
Rests on R157, R87, R97, R98, R102, R105, R118, R120, Log 17, Log 35. -/
def Obligations.FairRunsReturn : Prop :=
  ∀ (acts : Nat → Instr) (run : Nat → State), IsRun acts run → WeaklyFair acts run → (∀ n, (acts n).ofAgent = true) →
    (run 0).coherent = true → (run 0).busy = true →
    (∀ (n : Nat) (p : FrameRecord), (run n).pending = some p → (run n).frameWedged p.seq = false) →
    (∀ n, (run n).csts = true → (run n).cen = false → (run n).cacheWedged (run n).disableIndex = false) →
    ∃ n, (run n).pc = .ret ∧ acts n = .exec ∧ (∀ m ≤ n, (run m).busy = true ∧ (run m).req = (run 0).req)
      ∧ (run (n + 1)).busy = false ∧ (run (n + 1)).pc = .idle ∧ ∃ res, (run (n + 1)).result = some res
        ∧ (run (n + 1)).history = (run n).history ++ [.returned res]
end

