-- ==== Sys2Proof/Laws/State.lean ====
section
/-! SUPPORT. One lemma for each field of State under each named update: what the update leaves of the field. -/

namespace Sys2Proof.Machine

/-! ## log -/

@[simp] theorem State.log_cfg (s : State) (e : Event) : (s.log e).cfg = s.cfg := rfl
@[simp] theorem State.log_enable (s : State) (e : Event) : (s.log e).enable = s.enable := rfl
@[simp] theorem State.log_instrend (s : State) (e : Event) : (s.log e).instrend = s.instrend := rfl
@[simp] theorem State.log_instraddr (s : State) (e : Event) : (s.log e).instraddr = s.instraddr := rfl
@[simp] theorem State.log_instrctrl (s : State) (e : Event) : (s.log e).instrctrl = s.instrctrl := rfl
@[simp] theorem State.log_instrframe (s : State) (e : Event) : (s.log e).instrframe = s.instrframe := rfl
@[simp] theorem State.log_settled (s : State) (e : Event) : (s.log e).settled = s.settled := rfl
@[simp] theorem State.log_pending (s : State) (e : Event) : (s.log e).pending = s.pending := rfl
@[simp] theorem State.log_inflight (s : State) (e : Event) : (s.log e).inflight = s.inflight := rfl
@[simp] theorem State.log_nextSeq (s : State) (e : Event) : (s.log e).nextSeq = s.nextSeq := rfl
@[simp] theorem State.log_cen (s : State) (e : Event) : (s.log e).cen = s.cen := rfl
@[simp] theorem State.log_csts (s : State) (e : Event) : (s.log e).csts = s.csts := rfl
@[simp] theorem State.log_lines (s : State) (e : Event) : (s.log e).lines = s.lines := rfl
@[simp] theorem State.log_pc (s : State) (e : Event) : (s.log e).pc = s.pc := rfl
@[simp] theorem State.log_busy (s : State) (e : Event) : (s.log e).busy = s.busy := rfl
@[simp] theorem State.log_req (s : State) (e : Event) : (s.log e).req = s.req := rfl
@[simp] theorem State.log_word (s : State) (e : Event) : (s.log e).word = s.word := rfl
@[simp] theorem State.log_bracket (s : State) (e : Event) : (s.log e).bracket = s.bracket := rfl
@[simp] theorem State.log_ptr (s : State) (e : Event) : (s.log e).ptr = s.ptr := rfl
@[simp] theorem State.log_rx (s : State) (e : Event) : (s.log e).rx = s.rx := rfl
@[simp] theorem State.log_result (s : State) (e : Event) : (s.log e).result = s.result := rfl
@[simp] theorem State.log_history (s : State) (e : Event) : (s.log e).history = s.history ++ [e] := rfl
@[simp] theorem State.log_faults (s : State) (e : Event) : (s.log e).faults = s.faults := rfl
@[simp] theorem State.log_refused (s : State) (e : Event) : (s.log e).refused = s.refused := rfl
@[simp] theorem State.log_clockHz (s : State) (e : Event) : (s.log e).clockHz = s.clockHz := rfl
@[simp] theorem State.log_encOut (s : State) (e : Event) : (s.log e).encOut = s.encOut := rfl
@[simp] theorem State.log_draws (s : State) (e : Event) : (s.log e).draws = s.draws := rfl
@[simp] theorem State.log_script (s : State) (e : Event) : (s.log e).script = s.script := rfl

/-! ## raise -/

@[simp] theorem State.raise_cfg (s : State) (c : FaultCode) (info : FaultInfo) : (s.raise c info).cfg = s.cfg := rfl
@[simp] theorem State.raise_enable (s : State) (c : FaultCode) (info : FaultInfo) : (s.raise c info).enable = s.enable := rfl
@[simp] theorem State.raise_instrend (s : State) (c : FaultCode) (info : FaultInfo) : (s.raise c info).instrend = s.instrend := rfl
@[simp] theorem State.raise_instraddr (s : State) (c : FaultCode) (info : FaultInfo) : (s.raise c info).instraddr = s.instraddr := rfl
@[simp] theorem State.raise_instrctrl (s : State) (c : FaultCode) (info : FaultInfo) : (s.raise c info).instrctrl = s.instrctrl := rfl
@[simp] theorem State.raise_instrframe (s : State) (c : FaultCode) (info : FaultInfo) : (s.raise c info).instrframe = s.instrframe := rfl
@[simp] theorem State.raise_settled (s : State) (c : FaultCode) (info : FaultInfo) : (s.raise c info).settled = s.settled := rfl
@[simp] theorem State.raise_pending (s : State) (c : FaultCode) (info : FaultInfo) : (s.raise c info).pending = s.pending := rfl
@[simp] theorem State.raise_inflight (s : State) (c : FaultCode) (info : FaultInfo) : (s.raise c info).inflight = s.inflight := rfl
@[simp] theorem State.raise_nextSeq (s : State) (c : FaultCode) (info : FaultInfo) : (s.raise c info).nextSeq = s.nextSeq := rfl
@[simp] theorem State.raise_cen (s : State) (c : FaultCode) (info : FaultInfo) : (s.raise c info).cen = s.cen := rfl
@[simp] theorem State.raise_csts (s : State) (c : FaultCode) (info : FaultInfo) : (s.raise c info).csts = s.csts := rfl
@[simp] theorem State.raise_lines (s : State) (c : FaultCode) (info : FaultInfo) : (s.raise c info).lines = s.lines := rfl
@[simp] theorem State.raise_pc (s : State) (c : FaultCode) (info : FaultInfo) : (s.raise c info).pc = s.pc := rfl
@[simp] theorem State.raise_busy (s : State) (c : FaultCode) (info : FaultInfo) : (s.raise c info).busy = s.busy := rfl
@[simp] theorem State.raise_req (s : State) (c : FaultCode) (info : FaultInfo) : (s.raise c info).req = s.req := rfl
@[simp] theorem State.raise_word (s : State) (c : FaultCode) (info : FaultInfo) : (s.raise c info).word = s.word := rfl
@[simp] theorem State.raise_bracket (s : State) (c : FaultCode) (info : FaultInfo) : (s.raise c info).bracket = s.bracket := rfl
@[simp] theorem State.raise_ptr (s : State) (c : FaultCode) (info : FaultInfo) : (s.raise c info).ptr = s.ptr := rfl
@[simp] theorem State.raise_rx (s : State) (c : FaultCode) (info : FaultInfo) : (s.raise c info).rx = s.rx := rfl
@[simp] theorem State.raise_result (s : State) (c : FaultCode) (info : FaultInfo) : (s.raise c info).result = s.result := rfl
@[simp] theorem State.raise_history (s : State) (c : FaultCode) (info : FaultInfo) : (s.raise c info).history = s.history := rfl
@[simp] theorem State.raise_faults (s : State) (c : FaultCode) (info : FaultInfo) : (s.raise c info).faults = s.faults ++ [⟨c, info, s.pc⟩] := rfl
@[simp] theorem State.raise_refused (s : State) (c : FaultCode) (info : FaultInfo) : (s.raise c info).refused = s.refused := rfl
@[simp] theorem State.raise_clockHz (s : State) (c : FaultCode) (info : FaultInfo) : (s.raise c info).clockHz = s.clockHz := rfl
@[simp] theorem State.raise_encOut (s : State) (c : FaultCode) (info : FaultInfo) : (s.raise c info).encOut = s.encOut := rfl
@[simp] theorem State.raise_draws (s : State) (c : FaultCode) (info : FaultInfo) : (s.raise c info).draws = s.draws := rfl
@[simp] theorem State.raise_script (s : State) (c : FaultCode) (info : FaultInfo) : (s.raise c info).script = s.script := rfl

/-! ## stepPc -/

@[simp] theorem State.stepPc_cfg (s : State) : (s.stepPc).cfg = s.cfg := rfl
@[simp] theorem State.stepPc_enable (s : State) : (s.stepPc).enable = s.enable := rfl
@[simp] theorem State.stepPc_instrend (s : State) : (s.stepPc).instrend = s.instrend := rfl
@[simp] theorem State.stepPc_instraddr (s : State) : (s.stepPc).instraddr = s.instraddr := rfl
@[simp] theorem State.stepPc_instrctrl (s : State) : (s.stepPc).instrctrl = s.instrctrl := rfl
@[simp] theorem State.stepPc_instrframe (s : State) : (s.stepPc).instrframe = s.instrframe := rfl
@[simp] theorem State.stepPc_settled (s : State) : (s.stepPc).settled = s.settled := rfl
@[simp] theorem State.stepPc_pending (s : State) : (s.stepPc).pending = s.pending := rfl
@[simp] theorem State.stepPc_inflight (s : State) : (s.stepPc).inflight = s.inflight := rfl
@[simp] theorem State.stepPc_nextSeq (s : State) : (s.stepPc).nextSeq = s.nextSeq := rfl
@[simp] theorem State.stepPc_cen (s : State) : (s.stepPc).cen = s.cen := rfl
@[simp] theorem State.stepPc_csts (s : State) : (s.stepPc).csts = s.csts := rfl
@[simp] theorem State.stepPc_lines (s : State) : (s.stepPc).lines = s.lines := rfl
@[simp] theorem State.stepPc_pc (s : State) : (s.stepPc).pc = s.nextPc := rfl
@[simp] theorem State.stepPc_busy (s : State) : (s.stepPc).busy = s.busy := rfl
@[simp] theorem State.stepPc_req (s : State) : (s.stepPc).req = s.req := rfl
@[simp] theorem State.stepPc_word (s : State) : (s.stepPc).word = s.word := rfl
@[simp] theorem State.stepPc_bracket (s : State) : (s.stepPc).bracket = s.bracket := rfl
@[simp] theorem State.stepPc_ptr (s : State) : (s.stepPc).ptr = s.ptr := rfl
@[simp] theorem State.stepPc_rx (s : State) : (s.stepPc).rx = s.rx := rfl
@[simp] theorem State.stepPc_result (s : State) : (s.stepPc).result = s.result := rfl
@[simp] theorem State.stepPc_history (s : State) : (s.stepPc).history = s.history := rfl
@[simp] theorem State.stepPc_faults (s : State) : (s.stepPc).faults = s.faults := rfl
@[simp] theorem State.stepPc_refused (s : State) : (s.stepPc).refused = s.refused := rfl
@[simp] theorem State.stepPc_clockHz (s : State) : (s.stepPc).clockHz = s.clockHz := rfl
@[simp] theorem State.stepPc_encOut (s : State) : (s.stepPc).encOut = s.encOut := rfl
@[simp] theorem State.stepPc_draws (s : State) : (s.stepPc).draws = s.draws := rfl
@[simp] theorem State.stepPc_script (s : State) : (s.stepPc).script = s.script := rfl

/-! ## drew -/

@[simp] theorem State.drew_cfg (s : State) : (s.drew).cfg = s.cfg := rfl
@[simp] theorem State.drew_enable (s : State) : (s.drew).enable = s.enable := rfl
@[simp] theorem State.drew_instrend (s : State) : (s.drew).instrend = s.instrend := rfl
@[simp] theorem State.drew_instraddr (s : State) : (s.drew).instraddr = s.instraddr := rfl
@[simp] theorem State.drew_instrctrl (s : State) : (s.drew).instrctrl = s.instrctrl := rfl
@[simp] theorem State.drew_instrframe (s : State) : (s.drew).instrframe = s.instrframe := rfl
@[simp] theorem State.drew_settled (s : State) : (s.drew).settled = s.settled := rfl
@[simp] theorem State.drew_pending (s : State) : (s.drew).pending = s.pending := rfl
@[simp] theorem State.drew_inflight (s : State) : (s.drew).inflight = s.inflight := rfl
@[simp] theorem State.drew_nextSeq (s : State) : (s.drew).nextSeq = s.nextSeq := rfl
@[simp] theorem State.drew_cen (s : State) : (s.drew).cen = s.cen := rfl
@[simp] theorem State.drew_csts (s : State) : (s.drew).csts = s.csts := rfl
@[simp] theorem State.drew_lines (s : State) : (s.drew).lines = s.lines := rfl
@[simp] theorem State.drew_pc (s : State) : (s.drew).pc = s.pc := rfl
@[simp] theorem State.drew_busy (s : State) : (s.drew).busy = s.busy := rfl
@[simp] theorem State.drew_req (s : State) : (s.drew).req = s.req := rfl
@[simp] theorem State.drew_word (s : State) : (s.drew).word = s.word := rfl
@[simp] theorem State.drew_bracket (s : State) : (s.drew).bracket = s.bracket := rfl
@[simp] theorem State.drew_ptr (s : State) : (s.drew).ptr = s.ptr := rfl
@[simp] theorem State.drew_rx (s : State) : (s.drew).rx = s.rx := rfl
@[simp] theorem State.drew_result (s : State) : (s.drew).result = s.result := rfl
@[simp] theorem State.drew_history (s : State) : (s.drew).history = s.history := rfl
@[simp] theorem State.drew_faults (s : State) : (s.drew).faults = s.faults := rfl
@[simp] theorem State.drew_refused (s : State) : (s.drew).refused = s.refused := rfl
@[simp] theorem State.drew_clockHz (s : State) : (s.drew).clockHz = s.clockHz := rfl
@[simp] theorem State.drew_encOut (s : State) : (s.drew).encOut = s.encOut := rfl
@[simp] theorem State.drew_draws (s : State) : (s.drew).draws = s.draws + 1 := rfl
@[simp] theorem State.drew_script (s : State) : (s.drew).script = s.script := rfl

/-! ## withScript -/

@[simp] theorem State.withScript_cfg (s : State) (bs : List Byte) : (s.withScript bs).cfg = s.cfg := rfl
@[simp] theorem State.withScript_enable (s : State) (bs : List Byte) : (s.withScript bs).enable = s.enable := rfl
@[simp] theorem State.withScript_instrend (s : State) (bs : List Byte) : (s.withScript bs).instrend = s.instrend := rfl
@[simp] theorem State.withScript_instraddr (s : State) (bs : List Byte) : (s.withScript bs).instraddr = s.instraddr := rfl
@[simp] theorem State.withScript_instrctrl (s : State) (bs : List Byte) : (s.withScript bs).instrctrl = s.instrctrl := rfl
@[simp] theorem State.withScript_instrframe (s : State) (bs : List Byte) : (s.withScript bs).instrframe = s.instrframe := rfl
@[simp] theorem State.withScript_settled (s : State) (bs : List Byte) : (s.withScript bs).settled = s.settled := rfl
@[simp] theorem State.withScript_pending (s : State) (bs : List Byte) : (s.withScript bs).pending = s.pending := rfl
@[simp] theorem State.withScript_inflight (s : State) (bs : List Byte) : (s.withScript bs).inflight = s.inflight := rfl
@[simp] theorem State.withScript_nextSeq (s : State) (bs : List Byte) : (s.withScript bs).nextSeq = s.nextSeq := rfl
@[simp] theorem State.withScript_cen (s : State) (bs : List Byte) : (s.withScript bs).cen = s.cen := rfl
@[simp] theorem State.withScript_csts (s : State) (bs : List Byte) : (s.withScript bs).csts = s.csts := rfl
@[simp] theorem State.withScript_lines (s : State) (bs : List Byte) : (s.withScript bs).lines = s.lines := rfl
@[simp] theorem State.withScript_pc (s : State) (bs : List Byte) : (s.withScript bs).pc = s.pc := rfl
@[simp] theorem State.withScript_busy (s : State) (bs : List Byte) : (s.withScript bs).busy = s.busy := rfl
@[simp] theorem State.withScript_req (s : State) (bs : List Byte) : (s.withScript bs).req = s.req := rfl
@[simp] theorem State.withScript_word (s : State) (bs : List Byte) : (s.withScript bs).word = s.word := rfl
@[simp] theorem State.withScript_bracket (s : State) (bs : List Byte) : (s.withScript bs).bracket = s.bracket := rfl
@[simp] theorem State.withScript_ptr (s : State) (bs : List Byte) : (s.withScript bs).ptr = s.ptr := rfl
@[simp] theorem State.withScript_rx (s : State) (bs : List Byte) : (s.withScript bs).rx = s.rx := rfl
@[simp] theorem State.withScript_result (s : State) (bs : List Byte) : (s.withScript bs).result = s.result := rfl
@[simp] theorem State.withScript_history (s : State) (bs : List Byte) : (s.withScript bs).history = s.history := rfl
@[simp] theorem State.withScript_faults (s : State) (bs : List Byte) : (s.withScript bs).faults = s.faults := rfl
@[simp] theorem State.withScript_refused (s : State) (bs : List Byte) : (s.withScript bs).refused = s.refused := rfl
@[simp] theorem State.withScript_clockHz (s : State) (bs : List Byte) : (s.withScript bs).clockHz = s.clockHz := rfl
@[simp] theorem State.withScript_encOut (s : State) (bs : List Byte) : (s.withScript bs).encOut = s.encOut := rfl
@[simp] theorem State.withScript_draws (s : State) (bs : List Byte) : (s.withScript bs).draws = s.draws := rfl
@[simp] theorem State.withScript_script (s : State) (bs : List Byte) : (s.withScript bs).script = bs := rfl

/-! ## bringUp -/

@[simp] theorem State.bringUp_cfg (s : State) : (s.bringUp).cfg = s.cfg := rfl
@[simp] theorem State.bringUp_enable (s : State) : (s.bringUp).enable = true := rfl
@[simp] theorem State.bringUp_instrend (s : State) : (s.bringUp).instrend = s.instrend := rfl
@[simp] theorem State.bringUp_instraddr (s : State) : (s.bringUp).instraddr = s.instraddr := rfl
@[simp] theorem State.bringUp_instrctrl (s : State) : (s.bringUp).instrctrl = s.instrctrl := rfl
@[simp] theorem State.bringUp_instrframe (s : State) : (s.bringUp).instrframe = s.instrframe := rfl
@[simp] theorem State.bringUp_settled (s : State) : (s.bringUp).settled = s.settled := rfl
@[simp] theorem State.bringUp_pending (s : State) : (s.bringUp).pending = s.pending := rfl
@[simp] theorem State.bringUp_inflight (s : State) : (s.bringUp).inflight = s.inflight := rfl
@[simp] theorem State.bringUp_nextSeq (s : State) : (s.bringUp).nextSeq = s.nextSeq := rfl
@[simp] theorem State.bringUp_cen (s : State) : (s.bringUp).cen = s.cen := rfl
@[simp] theorem State.bringUp_csts (s : State) : (s.bringUp).csts = s.csts := rfl
@[simp] theorem State.bringUp_lines (s : State) : (s.bringUp).lines = s.lines := rfl
@[simp] theorem State.bringUp_pc (s : State) : (s.bringUp).pc = s.pc := rfl
@[simp] theorem State.bringUp_busy (s : State) : (s.bringUp).busy = s.busy := rfl
@[simp] theorem State.bringUp_req (s : State) : (s.bringUp).req = s.req := rfl
@[simp] theorem State.bringUp_word (s : State) : (s.bringUp).word = s.word := rfl
@[simp] theorem State.bringUp_bracket (s : State) : (s.bringUp).bracket = s.bracket := rfl
@[simp] theorem State.bringUp_ptr (s : State) : (s.bringUp).ptr = s.ptr := rfl
@[simp] theorem State.bringUp_rx (s : State) : (s.bringUp).rx = s.rx := rfl
@[simp] theorem State.bringUp_result (s : State) : (s.bringUp).result = s.result := rfl
@[simp] theorem State.bringUp_history (s : State) : (s.bringUp).history = s.history := rfl
@[simp] theorem State.bringUp_faults (s : State) : (s.bringUp).faults = s.faults := rfl
@[simp] theorem State.bringUp_refused (s : State) : (s.bringUp).refused = s.refused := rfl
@[simp] theorem State.bringUp_clockHz (s : State) : (s.bringUp).clockHz = s.clockHz := rfl
@[simp] theorem State.bringUp_encOut (s : State) : (s.bringUp).encOut = s.encOut := rfl
@[simp] theorem State.bringUp_draws (s : State) : (s.bringUp).draws = s.draws := rfl
@[simp] theorem State.bringUp_script (s : State) : (s.bringUp).script = s.script := rfl

/-! ## moved -/

@[simp] theorem State.moved_cfg (s : State) (p : FrameRecord) (b : Byte) : (s.moved p b).cfg = s.cfg := rfl
@[simp] theorem State.moved_enable (s : State) (p : FrameRecord) (b : Byte) : (s.moved p b).enable = s.enable := rfl
@[simp] theorem State.moved_instrend (s : State) (p : FrameRecord) (b : Byte) : (s.moved p b).instrend = s.instrend := rfl
@[simp] theorem State.moved_instraddr (s : State) (p : FrameRecord) (b : Byte) : (s.moved p b).instraddr = s.instraddr := rfl
@[simp] theorem State.moved_instrctrl (s : State) (p : FrameRecord) (b : Byte) : (s.moved p b).instrctrl = s.instrctrl := rfl
@[simp] theorem State.moved_instrframe (s : State) (p : FrameRecord) (b : Byte) : (s.moved p b).instrframe = s.instrframe := rfl
@[simp] theorem State.moved_settled (s : State) (p : FrameRecord) (b : Byte) : (s.moved p b).settled = s.settled := rfl
@[simp] theorem State.moved_pending (s : State) (p : FrameRecord) (b : Byte) : (s.moved p b).pending = some { p with data := p.data ++ [b], next := p.next + 1 } := rfl
@[simp] theorem State.moved_inflight (s : State) (p : FrameRecord) (b : Byte) : (s.moved p b).inflight = s.inflight := rfl
@[simp] theorem State.moved_nextSeq (s : State) (p : FrameRecord) (b : Byte) : (s.moved p b).nextSeq = s.nextSeq := rfl
@[simp] theorem State.moved_cen (s : State) (p : FrameRecord) (b : Byte) : (s.moved p b).cen = s.cen := rfl
@[simp] theorem State.moved_csts (s : State) (p : FrameRecord) (b : Byte) : (s.moved p b).csts = s.csts := rfl
@[simp] theorem State.moved_lines (s : State) (p : FrameRecord) (b : Byte) : (s.moved p b).lines = s.lines := rfl
@[simp] theorem State.moved_pc (s : State) (p : FrameRecord) (b : Byte) : (s.moved p b).pc = s.pc := rfl
@[simp] theorem State.moved_busy (s : State) (p : FrameRecord) (b : Byte) : (s.moved p b).busy = s.busy := rfl
@[simp] theorem State.moved_req (s : State) (p : FrameRecord) (b : Byte) : (s.moved p b).req = s.req := rfl
@[simp] theorem State.moved_word (s : State) (p : FrameRecord) (b : Byte) : (s.moved p b).word = s.word := rfl
@[simp] theorem State.moved_bracket (s : State) (p : FrameRecord) (b : Byte) : (s.moved p b).bracket = s.bracket := rfl
@[simp] theorem State.moved_ptr (s : State) (p : FrameRecord) (b : Byte) : (s.moved p b).ptr = s.ptr := rfl
@[simp] theorem State.moved_rx (s : State) (p : FrameRecord) (b : Byte) : (s.moved p b).rx = s.rx := rfl
@[simp] theorem State.moved_result (s : State) (p : FrameRecord) (b : Byte) : (s.moved p b).result = s.result := rfl
@[simp] theorem State.moved_history (s : State) (p : FrameRecord) (b : Byte) : (s.moved p b).history = s.history := rfl
@[simp] theorem State.moved_faults (s : State) (p : FrameRecord) (b : Byte) : (s.moved p b).faults = s.faults := rfl
@[simp] theorem State.moved_refused (s : State) (p : FrameRecord) (b : Byte) : (s.moved p b).refused = s.refused := rfl
@[simp] theorem State.moved_clockHz (s : State) (p : FrameRecord) (b : Byte) : (s.moved p b).clockHz = s.clockHz := rfl
@[simp] theorem State.moved_encOut (s : State) (p : FrameRecord) (b : Byte) : (s.moved p b).encOut = s.encOut := rfl
@[simp] theorem State.moved_draws (s : State) (p : FrameRecord) (b : Byte) : (s.moved p b).draws = s.draws := rfl
@[simp] theorem State.moved_script (s : State) (p : FrameRecord) (b : Byte) : (s.moved p b).script = s.script := rfl

/-! ## advanceAt -/

@[simp] theorem State.advanceAt_cfg (s : State) (row : Pc) : (s.advanceAt row).cfg = s.cfg := by
  unfold State.advanceAt; split <;> rfl
@[simp] theorem State.advanceAt_enable (s : State) (row : Pc) : (s.advanceAt row).enable = s.enable := by
  unfold State.advanceAt; split <;> rfl
@[simp] theorem State.advanceAt_instrend (s : State) (row : Pc) : (s.advanceAt row).instrend = s.instrend := by
  unfold State.advanceAt; split <;> rfl
@[simp] theorem State.advanceAt_instraddr (s : State) (row : Pc) : (s.advanceAt row).instraddr = s.instraddr := by
  unfold State.advanceAt; split <;> rfl
@[simp] theorem State.advanceAt_instrctrl (s : State) (row : Pc) : (s.advanceAt row).instrctrl = s.instrctrl := by
  unfold State.advanceAt; split <;> rfl
@[simp] theorem State.advanceAt_instrframe (s : State) (row : Pc) : (s.advanceAt row).instrframe = s.instrframe := by
  unfold State.advanceAt; split <;> rfl
@[simp] theorem State.advanceAt_settled (s : State) (row : Pc) : (s.advanceAt row).settled = s.settled := by
  unfold State.advanceAt; split <;> rfl
@[simp] theorem State.advanceAt_pending (s : State) (row : Pc) : (s.advanceAt row).pending = s.pending := by
  unfold State.advanceAt; split <;> rfl
@[simp] theorem State.advanceAt_inflight (s : State) (row : Pc) : (s.advanceAt row).inflight = s.inflight := by
  unfold State.advanceAt; split <;> rfl
@[simp] theorem State.advanceAt_nextSeq (s : State) (row : Pc) : (s.advanceAt row).nextSeq = s.nextSeq := by
  unfold State.advanceAt; split <;> rfl
@[simp] theorem State.advanceAt_cen (s : State) (row : Pc) : (s.advanceAt row).cen = s.cen := by
  unfold State.advanceAt; split <;> rfl
@[simp] theorem State.advanceAt_csts (s : State) (row : Pc) : (s.advanceAt row).csts = s.csts := by
  unfold State.advanceAt; split <;> rfl
@[simp] theorem State.advanceAt_lines (s : State) (row : Pc) : (s.advanceAt row).lines = s.lines := by
  unfold State.advanceAt; split <;> rfl
@[simp] theorem State.advanceAt_pc (s : State) (row : Pc) : (s.advanceAt row).pc = if s.pc = row then s.nextPc else s.pc := by
  unfold State.advanceAt; split <;> simp_all [State.nextPc]
@[simp] theorem State.advanceAt_busy (s : State) (row : Pc) : (s.advanceAt row).busy = s.busy := by
  unfold State.advanceAt; split <;> rfl
@[simp] theorem State.advanceAt_req (s : State) (row : Pc) : (s.advanceAt row).req = s.req := by
  unfold State.advanceAt; split <;> rfl
@[simp] theorem State.advanceAt_word (s : State) (row : Pc) : (s.advanceAt row).word = s.word := by
  unfold State.advanceAt; split <;> rfl
@[simp] theorem State.advanceAt_bracket (s : State) (row : Pc) : (s.advanceAt row).bracket = s.bracket := by
  unfold State.advanceAt; split <;> rfl
@[simp] theorem State.advanceAt_ptr (s : State) (row : Pc) : (s.advanceAt row).ptr = s.ptr := by
  unfold State.advanceAt; split <;> rfl
@[simp] theorem State.advanceAt_rx (s : State) (row : Pc) : (s.advanceAt row).rx = s.rx := by
  unfold State.advanceAt; split <;> rfl
@[simp] theorem State.advanceAt_result (s : State) (row : Pc) : (s.advanceAt row).result = s.result := by
  unfold State.advanceAt; split <;> rfl
@[simp] theorem State.advanceAt_history (s : State) (row : Pc) : (s.advanceAt row).history = s.history := by
  unfold State.advanceAt; split <;> rfl
@[simp] theorem State.advanceAt_faults (s : State) (row : Pc) : (s.advanceAt row).faults = s.faults := by
  unfold State.advanceAt; split <;> rfl
@[simp] theorem State.advanceAt_refused (s : State) (row : Pc) : (s.advanceAt row).refused = s.refused := by
  unfold State.advanceAt; split <;> rfl
@[simp] theorem State.advanceAt_clockHz (s : State) (row : Pc) : (s.advanceAt row).clockHz = s.clockHz := by
  unfold State.advanceAt; split <;> rfl
@[simp] theorem State.advanceAt_encOut (s : State) (row : Pc) : (s.advanceAt row).encOut = s.encOut := by
  unfold State.advanceAt; split <;> rfl
@[simp] theorem State.advanceAt_draws (s : State) (row : Pc) : (s.advanceAt row).draws = s.draws := by
  unfold State.advanceAt; split <;> rfl
@[simp] theorem State.advanceAt_script (s : State) (row : Pc) : (s.advanceAt row).script = s.script := by
  unfold State.advanceAt; split <;> rfl

/-! ## keepWord -/

@[simp] theorem State.keepWord_cfg (s : State) (w : Word) : (s.keepWord w).cfg = s.cfg := by
  unfold State.keepWord; split <;> rfl
@[simp] theorem State.keepWord_enable (s : State) (w : Word) : (s.keepWord w).enable = s.enable := by
  unfold State.keepWord; split <;> rfl
@[simp] theorem State.keepWord_instrend (s : State) (w : Word) : (s.keepWord w).instrend = s.instrend := by
  unfold State.keepWord; split <;> rfl
@[simp] theorem State.keepWord_instraddr (s : State) (w : Word) : (s.keepWord w).instraddr = s.instraddr := by
  unfold State.keepWord; split <;> rfl
@[simp] theorem State.keepWord_instrctrl (s : State) (w : Word) : (s.keepWord w).instrctrl = s.instrctrl := by
  unfold State.keepWord; split <;> rfl
@[simp] theorem State.keepWord_instrframe (s : State) (w : Word) : (s.keepWord w).instrframe = s.instrframe := by
  unfold State.keepWord; split <;> rfl
@[simp] theorem State.keepWord_settled (s : State) (w : Word) : (s.keepWord w).settled = s.settled := by
  unfold State.keepWord; split <;> rfl
@[simp] theorem State.keepWord_pending (s : State) (w : Word) : (s.keepWord w).pending = s.pending := by
  unfold State.keepWord; split <;> rfl
@[simp] theorem State.keepWord_inflight (s : State) (w : Word) : (s.keepWord w).inflight = s.inflight := by
  unfold State.keepWord; split <;> rfl
@[simp] theorem State.keepWord_nextSeq (s : State) (w : Word) : (s.keepWord w).nextSeq = s.nextSeq := by
  unfold State.keepWord; split <;> rfl
@[simp] theorem State.keepWord_cen (s : State) (w : Word) : (s.keepWord w).cen = s.cen := by
  unfold State.keepWord; split <;> rfl
@[simp] theorem State.keepWord_csts (s : State) (w : Word) : (s.keepWord w).csts = s.csts := by
  unfold State.keepWord; split <;> rfl
@[simp] theorem State.keepWord_lines (s : State) (w : Word) : (s.keepWord w).lines = s.lines := by
  unfold State.keepWord; split <;> rfl
@[simp] theorem State.keepWord_pc (s : State) (w : Word) : (s.keepWord w).pc = if s.pc = .s3Frame then .s4 else s.pc := by
  unfold State.keepWord; split <;> simp_all [State.nextPc]
@[simp] theorem State.keepWord_busy (s : State) (w : Word) : (s.keepWord w).busy = s.busy := by
  unfold State.keepWord; split <;> rfl
@[simp] theorem State.keepWord_req (s : State) (w : Word) : (s.keepWord w).req = s.req := by
  unfold State.keepWord; split <;> rfl
@[simp] theorem State.keepWord_word (s : State) (w : Word) : (s.keepWord w).word = if s.pc = .s3Frame then w else s.word := by
  unfold State.keepWord; split <;> simp_all
@[simp] theorem State.keepWord_bracket (s : State) (w : Word) : (s.keepWord w).bracket = s.bracket := by
  unfold State.keepWord; split <;> rfl
@[simp] theorem State.keepWord_ptr (s : State) (w : Word) : (s.keepWord w).ptr = s.ptr := by
  unfold State.keepWord; split <;> rfl
@[simp] theorem State.keepWord_rx (s : State) (w : Word) : (s.keepWord w).rx = s.rx := by
  unfold State.keepWord; split <;> rfl
@[simp] theorem State.keepWord_result (s : State) (w : Word) : (s.keepWord w).result = s.result := by
  unfold State.keepWord; split <;> rfl
@[simp] theorem State.keepWord_history (s : State) (w : Word) : (s.keepWord w).history = s.history := by
  unfold State.keepWord; split <;> rfl
@[simp] theorem State.keepWord_faults (s : State) (w : Word) : (s.keepWord w).faults = s.faults := by
  unfold State.keepWord; split <;> rfl
@[simp] theorem State.keepWord_refused (s : State) (w : Word) : (s.keepWord w).refused = s.refused := by
  unfold State.keepWord; split <;> rfl
@[simp] theorem State.keepWord_clockHz (s : State) (w : Word) : (s.keepWord w).clockHz = s.clockHz := by
  unfold State.keepWord; split <;> rfl
@[simp] theorem State.keepWord_encOut (s : State) (w : Word) : (s.keepWord w).encOut = s.encOut := by
  unfold State.keepWord; split <;> rfl
@[simp] theorem State.keepWord_draws (s : State) (w : Word) : (s.keepWord w).draws = s.draws := by
  unfold State.keepWord; split <;> rfl
@[simp] theorem State.keepWord_script (s : State) (w : Word) : (s.keepWord w).script = s.script := by
  unfold State.keepWord; split <;> rfl

/-! ## copied -/

@[simp] theorem State.copied_cfg (s : State) (bs : List Byte) : (s.copied bs).cfg = s.cfg := by
  unfold State.copied; split <;> rfl
@[simp] theorem State.copied_enable (s : State) (bs : List Byte) : (s.copied bs).enable = s.enable := by
  unfold State.copied; split <;> rfl
@[simp] theorem State.copied_instrend (s : State) (bs : List Byte) : (s.copied bs).instrend = s.instrend := by
  unfold State.copied; split <;> rfl
@[simp] theorem State.copied_instraddr (s : State) (bs : List Byte) : (s.copied bs).instraddr = s.instraddr := by
  unfold State.copied; split <;> rfl
@[simp] theorem State.copied_instrctrl (s : State) (bs : List Byte) : (s.copied bs).instrctrl = s.instrctrl := by
  unfold State.copied; split <;> rfl
@[simp] theorem State.copied_instrframe (s : State) (bs : List Byte) : (s.copied bs).instrframe = s.instrframe := by
  unfold State.copied; split <;> rfl
@[simp] theorem State.copied_settled (s : State) (bs : List Byte) : (s.copied bs).settled = s.settled := by
  unfold State.copied; split <;> rfl
@[simp] theorem State.copied_pending (s : State) (bs : List Byte) : (s.copied bs).pending = s.pending := by
  unfold State.copied; split <;> rfl
@[simp] theorem State.copied_inflight (s : State) (bs : List Byte) : (s.copied bs).inflight = s.inflight := by
  unfold State.copied; split <;> rfl
@[simp] theorem State.copied_nextSeq (s : State) (bs : List Byte) : (s.copied bs).nextSeq = s.nextSeq := by
  unfold State.copied; split <;> rfl
@[simp] theorem State.copied_cen (s : State) (bs : List Byte) : (s.copied bs).cen = s.cen := by
  unfold State.copied; split <;> rfl
@[simp] theorem State.copied_csts (s : State) (bs : List Byte) : (s.copied bs).csts = s.csts := by
  unfold State.copied; split <;> rfl
@[simp] theorem State.copied_lines (s : State) (bs : List Byte) : (s.copied bs).lines = s.lines := by
  unfold State.copied; split <;> rfl
@[simp] theorem State.copied_busy (s : State) (bs : List Byte) : (s.copied bs).busy = s.busy := by
  unfold State.copied; split <;> rfl
@[simp] theorem State.copied_req (s : State) (bs : List Byte) : (s.copied bs).req = s.req := by
  unfold State.copied; split <;> rfl
@[simp] theorem State.copied_word (s : State) (bs : List Byte) : (s.copied bs).word = s.word := by
  unfold State.copied; split <;> rfl
@[simp] theorem State.copied_bracket (s : State) (bs : List Byte) : (s.copied bs).bracket = s.bracket := by
  unfold State.copied; split <;> rfl
@[simp] theorem State.copied_ptr (s : State) (bs : List Byte) : (s.copied bs).ptr = s.ptr := by
  unfold State.copied; split <;> rfl
@[simp] theorem State.copied_result (s : State) (bs : List Byte) : (s.copied bs).result = s.result := by
  unfold State.copied; split <;> rfl
@[simp] theorem State.copied_history (s : State) (bs : List Byte) : (s.copied bs).history = s.history := by
  unfold State.copied; split <;> rfl
@[simp] theorem State.copied_faults (s : State) (bs : List Byte) : (s.copied bs).faults = s.faults := by
  unfold State.copied; split <;> rfl
@[simp] theorem State.copied_refused (s : State) (bs : List Byte) : (s.copied bs).refused = s.refused := by
  unfold State.copied; split <;> rfl
@[simp] theorem State.copied_clockHz (s : State) (bs : List Byte) : (s.copied bs).clockHz = s.clockHz := by
  unfold State.copied; split <;> rfl
@[simp] theorem State.copied_encOut (s : State) (bs : List Byte) : (s.copied bs).encOut = s.encOut := by
  unfold State.copied; split <;> rfl
@[simp] theorem State.copied_draws (s : State) (bs : List Byte) : (s.copied bs).draws = s.draws := by
  unfold State.copied; split <;> rfl
@[simp] theorem State.copied_script (s : State) (bs : List Byte) : (s.copied bs).script = s.script := by
  unfold State.copied; split <;> rfl

/-- At a copy row the received bytes are kept. -/
theorem State.copied_rx (s : State) (bs : List Byte) : (s.copied bs).rx = if s.atCopy then s.rx ++ bs else s.rx := by
  unfold State.copied State.atCopy; split <;> simp_all

/-- At a copy row the executor goes on to the next byte, or to the start write after the last one. -/
theorem State.copied_pc (s : State) (bs : List Byte) : (s.copied bs).pc = if s.atCopy then s.nextPc else s.pc := by
  unfold State.copied State.atCopy; split <;> simp_all [State.nextPc]

end Sys2Proof.Machine
end

