-- ==== Sys2Proof/Laws/Ops.lean ====
section
/-! SUPPORT. For each shared operation one lemma that says everything it can do, and exec as one effect applied to a live
state; a proof about the machine cites these and unfolds no operation. -/

namespace Sys2Proof.Machine

/-! ## Live and halted states -/

theorem State.haltedBy_live {s : State} (h : s.faults = []) : s.haltedBy = none := by simp [State.haltedBy, h]

theorem State.haltedBy_faulted {s : State} (h : s.faults ≠ []) : ∃ code, s.haltedBy = some code := by
  cases hf : s.faults with
  | nil => exact absurd hf h
  | cons f fs => exact ⟨f.code, by simp [State.haltedBy, hf]⟩

theorem State.whenLive_live {s : State} {effect : State → State} (h : s.faults = []) : s.whenLive effect = .next (effect s) := by
  simp [State.whenLive, State.haltedBy_live h]

theorem State.whenLive_faulted {s : State} {effect : State → State} (h : s.faults ≠ []) :
    ∃ code, s.whenLive effect = .fault (.halted code) := by
  obtain ⟨code, hc⟩ := State.haltedBy_faulted h
  exact ⟨code, by simp [State.whenLive, hc]⟩

/-- A step is taken exactly from a state without a recorded fault, and it is its effect. -/
theorem State.whenLive_next {s t : State} {effect : State → State} :
    s.whenLive effect = .next t ↔ s.faults = [] ∧ effect s = t := by
  by_cases h : s.faults = []
  · simp [State.whenLive_live h, h]
  · obtain ⟨code, hc⟩ := State.whenLive_faulted (effect := effect) h
    simp [hc, h]

/-! ## exec as one effect -/

/-- What each instruction does to a live state. -/
def effect (i : Instr) (s : State) : State :=
  match i with
  | .frameRead f => s.access (s.issues (.frameRead f)) (·.performWord (frameWord 0 f))
  | .frameReadMemory f => s.access (s.issues (.frameReadMemory f)) (·.performWord (frameWord 1 f))
  | .frameWrite f => s.access (s.issues (.frameWrite f)) (·.performWord (frameWord 2 f))
  | .frameWriteMemory f => s.access (s.issues (.frameWriteMemory f)) (·.performWord (frameWord 3 f))
  | .runCommand op nocache => s.submitRequest (runRequest op nocache)
  | .readCommand op len nocache => s.submitRequest (readRequest op len nocache)
  | .writeCommand op bytes nocache => s.submitRequest (writeRequest op bytes nocache)
  | .writeCommandLen0 op nocache => s.submitRequest (writeRequest op [] nocache)
  | .eraseCommand op address nocache => s.submitRequest (eraseRequest op address nocache)
  | .readMemory address len nocache => s.submitRequest (readMemoryRequest s.cfg address len nocache)
  | .writeMemory address bytes nocache => s.submitRequest (writeMemoryRequest s.cfg address bytes nocache)
  | .wrInstrctrl op => s.access (s.issues (.wrInstrctrl op)) (·.programOpcode op)
  | .wrInstraddr a => s.access (s.issues (.wrInstraddr a)) (·.programAddress a)
  | .wrInstrframe w => s.access (s.issues (.wrInstrframe w)) (·.programFrame w)
  | .rdInstrframe => s.access (s.issues .rdInstrframe) (·.settleRead)
  | .winRd o => s.access (s.issues (.winRd o)) (·.windowRead o.toNat)
  | .winWr o v => s.access (s.issues (.winWr o v)) (·.windowWrite o.toNat v)
  | .start => s.access (s.issues .start) (·.startTransfer)
  | .rdIntflag => s.access (s.issues .rdIntflag) (·.pollComplete)
  | .clrIntflag => s.access (s.issues .clrIntflag) (·.clearFlag)
  | .cacheDisable => s.access (s.issues .cacheDisable) (·.disableCache)
  | .cacheEnable => s.access (s.issues .cacheEnable) (·.enableCache)
  | .rdCmccSr => s.access (s.issues .rdCmccSr) (·.pollClean)
  | .cacheInvalidate => s.access (s.issues .cacheInvalidate) (·.invalidateCache)
  | .dsb => s.barrier .dsb .s6Dsb
  | .isb => s.barrier .isb .s6Isb
  | .complete => s.completeFrame
  | .cacheSettle => s.settleCache
  | .encode d txPresent length => s.encodeOut d txPresent length
  | .exec => s.executorStep
  | .submit r => s.submitRequest r
  | .setclk hz => s.setClock hz

theorem exec_eq_effect (i : Instr) (s : State) : exec i s = s.whenLive (effect i) := by cases i <;> rfl

/-- exec answers a next state exactly from a live state, and that state is the effect. -/
theorem exec_next {i : Instr} {s t : State} : exec i s = .next t ↔ s.faults = [] ∧ effect i s = t := by
  rw [exec_eq_effect, State.whenLive_next]

theorem exec_live {i : Instr} {s : State} (h : s.faults = []) : exec i s = .next (effect i s) := exec_next.mpr ⟨h, rfl⟩

/-! ## What each operation can do -/

/-- An access has its effect, or sets the refused mark. -/
theorem State.access_cases (s : State) (atRow : Bool) (f : State → State) :
    (s.access atRow f = f s ∧ (s.busy = false ∨ atRow = true)) ∨
    (s.access atRow f = { s with refused := true } ∧ s.busy = true ∧ atRow = false) := by
  unfold State.access; cases s.busy <;> cases atRow <;> simp

theorem State.programOpcode_cases (s : State) (op : Byte) :
    (s.frameHeld = true ∧ s.programOpcode op = s.raise .frameOverrun (.reg .instrctrl)) ∨
    (s.frameHeld = false ∧ s.programOpcode op =
      ({ s with instrctrl := op.setWidth 32 }.log (.regWrite .instrctrl (op.setWidth 32))).advanceAt .s3Op) := by
  unfold State.programOpcode; cases s.frameHeld <;> simp

theorem State.programAddress_cases (s : State) (a : Word) :
    (s.frameHeld = true ∧ s.programAddress a = s.raise .frameOverrun (.reg .instraddr)) ∨
    (s.frameHeld = false ∧
      s.programAddress a = ({ s with instraddr := a }.log (.regWrite .instraddr a)).advanceAt .s3Addr) := by
  unfold State.programAddress; cases s.frameHeld <;> simp

theorem State.programFrame_cases (s : State) (w : Word) :
    (s.frameHeld = true ∧ s.programFrame w = s.raise .frameOverrun (.reg .instrframe)) ∨
    (s.frameHeld = false ∧ reservedWord w = true ∧ s.programFrame w = s.raise .reservedFieldValue (.word w)) ∨
    (s.frameHeld = false ∧ reservedWord w = false ∧ s.programFrame w =
      ({ s with instrframe := w, settled := false, pending := some (s.sampleFrame w), nextSeq := s.nextSeq + 1 }.log
        (.regWrite .instrframe w)).keepWord w) := by
  unfold State.programFrame; cases s.frameHeld <;> cases reservedWord w <;> simp

theorem State.pollComplete_cases (s : State) :
    (s.instrend = false ∧ s.pollComplete = s) ∨
    (s.instrend = true ∧
      s.pollComplete = (s.drew.log (.regRead .intflag (intflagWord s.instrend s.drawnBits))).advanceAt .s6Poll) := by
  unfold State.pollComplete; cases s.instrend <;> simp

/-- A window read raises, or moves the byte the flash drives. -/
theorem State.windowRead_cases (s : State) (o : Nat) :
    (∃ code, s.windowRead o = s.raise code (.offset o)) ∨
    (∃ p, s.pending = some p ∧ s.windowFault p o false = none ∧ s.windowRead o =
      ((s.moved p (s.flashByte p.seq p.data.length)).log (.winRead o (s.flashByte p.seq p.data.length))).copied
        [s.flashByte p.seq p.data.length]) := by
  unfold State.windowRead
  cases hp : s.pending with
  | none => exact .inl ⟨_, rfl⟩
  | some p =>
    cases hf : s.windowFault p o false with
    | some code => exact .inl ⟨code, by simp only [hf]⟩
    | none => exact .inr ⟨p, rfl, hf, by simp only [hf]⟩

/-- A window write raises, or moves its byte. -/
theorem State.windowWrite_cases (s : State) (o : Nat) (v : Byte) :
    (∃ code, s.windowWrite o v = s.raise code (.offset o)) ∨
    (∃ p, s.pending = some p ∧ s.windowFault p o true = none ∧
      s.windowWrite o v = ((s.moved p v).log (.winWrite o v)).copied []) := by
  unfold State.windowWrite
  cases hp : s.pending with
  | none => exact .inl ⟨_, rfl⟩
  | some p =>
    cases hf : s.windowFault p o true with
    | some code => exact .inl ⟨code, by simp only [hf]⟩
    | none => exact .inr ⟨p, rfl, hf, by simp only [hf]⟩

/-- A window access is let through exactly when every check of R92 or R93 holds. -/
theorem State.windowFault_none {s : State} {p : FrameRecord} {o : Nat} {write : Bool} :
    s.windowFault p o write = none ↔
      s.inflight = false ∧ dataEn p.word = true ∧ s.settled = true ∧ writeBit p.word = write ∧ o = p.next ∧
        (s.cfg.cachePresent && s.csts) = false := by
  unfold State.windowFault
  cases s.inflight <;> cases dataEn p.word <;> cases s.settled <;> cases hw : writeBit p.word <;> cases write <;>
    by_cases ho : o = p.next <;> cases s.cfg.cachePresent <;> cases s.csts <;> simp [ho]

/-- The start write raises, or performs the pending frame. -/
theorem State.startTransfer_cases (s : State) :
    (∃ code, s.startFault = some code ∧ s.startTransfer = s.raise code (.reg .ctrla)) ∨
    (∃ p, s.startFault = none ∧ s.pending = some p ∧ s.inflight = false ∧ s.settled = true ∧ s.instrend = false ∧
      s.startTransfer = s.performFrame p) := by
  unfold State.startTransfer State.startFault
  cases s.pending <;> cases s.inflight <;> cases s.settled <;> cases s.instrend <;> simp

/-- A frame instruction raises, or performs the pending frame of its word. -/
theorem State.performWord_cases (s : State) (w : Word) :
    (∃ code, s.performWord w = s.raise code (.reg .ctrla)) ∨
    (∃ p, s.pending = some p ∧ p.word = w ∧ s.inflight = false ∧ s.settled = true ∧ s.instrend = false ∧
      s.performWord w = s.performFrame p) := by
  unfold State.performWord
  split
  · next h =>
    rcases State.startTransfer_cases s with ⟨code, -, hc⟩ | ⟨p, -, hp, h1, h2, h3, h4⟩
    · exact .inl ⟨code, hc⟩
    · exact .inr ⟨p, hp, by simpa [hp] using h, h1, h2, h3, h4⟩
  · exact .inl ⟨_, rfl⟩

/-- The completion step is not enabled, or completes the frame in flight. -/
theorem State.completeFrame_cases (s : State) :
    s.completeFrame = s ∨
    (∃ p, s.pending = some p ∧ s.inflight = true ∧ s.frameWedged p.seq = false ∧ s.completeFrame =
      { s with instrend := true, inflight := false, pending := none }.log (.complete p.seq)) := by
  unfold State.completeFrame
  cases s.pending with
  | none => exact .inl rfl
  | some p => cases hi : s.inflight <;> cases hw : s.frameWedged p.seq <;> simp [hw]

theorem State.pollClean_cases (s : State) :
    (s.csts = true ∧ s.pollClean = s) ∨
    (s.csts = false ∧ s.pollClean = (s.log (.regRead .cmccSr 0)).advanceAt .s2Poll) := by
  unfold State.pollClean; cases s.csts <;> simp [bit0Word]

theorem State.invalidateCache_cases (s : State) :
    (s.csts = true ∧ s.invalidateCache = s.raise .cacheMaintWhileActive (.reg .cmccMaint0)) ∨
    (s.csts = false ∧ s.invalidateCache = ({ s with lines := [] }.log .cacheInvalidate).advanceAt .s2Inv) := by
  unfold State.invalidateCache; cases s.csts <;> simp

theorem State.settleCache_cases (s : State) :
    (s.settleEnabled = false ∧ s.settleCache = s) ∨
    (s.settleEnabled = true ∧ s.settleCache = { s with csts := s.cen }.log (.cacheStatus s.cen)) := by
  unfold State.settleCache; cases s.settleEnabled <;> simp

theorem State.submitRequest_cases (s : State) (r : Request) :
    (s.busy = true ∧ s.submitRequest r = s.raise .reentrantCall (.request r)) ∨
    (s.busy = false ∧ s.submitRequest r = { s with req := r, rx := [], busy := true, pc := .check }.log (.request r)) := by
  unfold State.submitRequest; cases s.busy <;> simp

theorem State.setClock_cases (s : State) (hz : Nat) :
    (s.busy = true ∧ s.setClock hz = s.raise .reentrantCall (.rate hz)) ∨
    (s.busy = false ∧ s.setClock hz = { s with clockHz := hz }) := by
  unfold State.setClock; cases s.busy <;> simp

theorem State.checkEntry_cases (s : State) :
    (∃ c, s.req.firstFailing s.cfg = some c ∧ s.checkEntry = s.raise .malformedRequest (.check c)) ∨
    (s.req.firstFailing s.cfg = none ∧ s.enable = false ∧ s.checkEntry = s.raise .notEnabled (.request s.req)) ∨
    (s.req.firstFailing s.cfg = none ∧ s.enable = true ∧ s.checkEntry = s.stepPc) := by
  unfold State.checkEntry
  cases s.req.firstFailing s.cfg <;> cases s.enable <;> simp

/-- The return gives a result, and counts a draw where failure is admitted. -/
theorem State.returnRequest_eq (s : State) :
    s.returnRequest = { s with
      draws := if s.cfg.failureAdmitted then s.draws + 1 else s.draws, result := some s.returnValue, busy := false,
      pc := .idle, history := s.history ++ [.returned s.returnValue] } := by
  unfold State.returnRequest; cases s.cfg.failureAdmitted <;> rfl

/-- The copy of a byte is a window write of the buffer's byte or a window read, at the byte's offset. -/
theorem State.copyByte_cases (s : State) (i : Nat) :
    (writeBit s.word = true ∧ s.copyByte i = s.windowWrite (s.copyOffset i) (s.bufferByte i)) ∨
    (writeBit s.word = false ∧ s.copyByte i = s.windowRead (s.copyOffset i)) := by
  unfold State.copyByte; cases writeBit s.word <;> simp

/-- The nine checks hold exactly when none fails first. -/
theorem Request.firstFailing_none {p : Params} {r : Request} : r.firstFailing p = none ↔ r.wellFormed p = true := by
  simp [Sys2Proof.Request.firstFailing, Sys2Proof.Request.wellFormed, List.find?_eq_none]

/-! ## step -/

/-- From a live state a step is exec of the fetched instruction, a foreign access, a refusal, or exec of a free agent's step. -/
theorem step_cases {s t : State} (h : step s = .next t) :
    (∃ i rest, s.fetch = .instr i rest ∧ exec i (s.withScript rest) = .next t) ∨
    (∃ a rest, s.fetch = .foreign a rest ∧ t = (s.withScript rest).foreignAccess a) ∨
    (s.script = [] ∧ exec s.freeInstr s.drew = .next t) := by
  unfold step at h
  split at h
  · cases h
  · next hs => exact .inr (.inr ⟨hs, h⟩)
  · split at h
    · next i rest hf => exact .inl ⟨i, rest, hf, h⟩
    · next a rest hf => cases h; exact .inr (.inl ⟨a, rest, hf, rfl⟩)
    · cases h

/-- Where the script is empty, the step is an agent's own. -/
theorem State.freeInstr_cases (s : State) : s.freeInstr = .exec ∨ s.freeInstr = .complete ∨ s.freeInstr = .cacheSettle := by
  unfold State.freeInstr; cases s.drawnAgent <;> simp

end Sys2Proof.Machine
end

