-- ==== Sys2Proof/Laws/Change.lean ====
section
/-! SUPPORT. Everything an instruction can do, said once: Change lists the ways a live state can change, each with the
instruction, the row and the guards that lead to it; a whole-machine proof is a case analysis of Change.of_exec. -/

namespace Sys2Proof.Machine

/-- The ways instruction `i` can change a live state `s`. -/
inductive Change (s : State) (i : Instr) : State → Prop where
  /-- a held or waiting step -/
  | held (h : i = .complete ∨ i = .cacheSettle ∨ i = .rdIntflag ∨ i = .rdCmccSr ∨ i = .exec) : Change s i s
  | raised (code : FaultCode) (info : FaultInfo) : Change s i (s.raise code info)
  | refused (h : i.isAccess = true) (busy : s.busy = true) : Change s i { s with refused := true }
  | opcode (op : Byte) (h : i = .wrInstrctrl op ∨ (i = .exec ∧ s.pc = .s3Op ∧ op = s.req.instruction.opcode))
      (free : s.frameHeld = false) :
      Change s i (({ s with instrctrl := op.setWidth 32 }.log (.regWrite .instrctrl (op.setWidth 32))).advanceAt .s3Op)
  | address (a : Word) (h : i = .wrInstraddr a ∨ (i = .exec ∧ s.pc = .s3Addr ∧ a = s.programmedAddress))
      (free : s.frameHeld = false) :
      Change s i (({ s with instraddr := a }.log (.regWrite .instraddr a)).advanceAt .s3Addr)
  | frame (w : Word) (h : i = .wrInstrframe w ∨ (i = .exec ∧ s.pc = .s3Frame ∧ w = s.requestWord))
      (free : s.frameHeld = false) (ok : reservedWord w = false) :
      Change s i (({ s with
        instrframe := w, settled := false, pending := some (s.sampleFrame w), nextSeq := s.nextSeq + 1 }.log
          (.regWrite .instrframe w)).keepWord w)
  | settle (h : i = .rdInstrframe ∨ (i = .exec ∧ s.pc = .s4)) :
      Change s i (({ s with settled := true }.log (.regRead .instrframe s.instrframe)).advanceAt .s4)
  | read (p : FrameRecord) (o : Nat)
      (h : (∃ o' : Word, i = .winRd o' ∧ o = o'.toNat) ∨
        (i = .exec ∧ writeBit s.word = false ∧ ∃ n, s.pc = .s5 n ∧ o = s.copyOffset n))
      (pending : s.pending = some p) (ok : s.windowFault p o false = none) :
      Change s i (((s.moved p (s.flashByte p.seq p.data.length)).log (.winRead o (s.flashByte p.seq p.data.length))).copied
        [s.flashByte p.seq p.data.length])
  | write (p : FrameRecord) (o : Nat) (v : Byte)
      (h : (∃ o' : Word, i = .winWr o' v ∧ o = o'.toNat) ∨
        (i = .exec ∧ writeBit s.word = true ∧ ∃ n, s.pc = .s5 n ∧ o = s.copyOffset n ∧ v = s.bufferByte n))
      (pending : s.pending = some p) (ok : s.windowFault p o true = none) :
      Change s i (((s.moved p v).log (.winWrite o v)).copied [])
  | perform (p : FrameRecord)
      (h : i = .start ∨
        (∃ f, (i = .frameRead f ∧ p.word = frameWord 0 f) ∨ (i = .frameReadMemory f ∧ p.word = frameWord 1 f) ∨
          (i = .frameWrite f ∧ p.word = frameWord 2 f) ∨ (i = .frameWriteMemory f ∧ p.word = frameWord 3 f)) ∨
        (i = .exec ∧ s.pc = .s6Start))
      (pending : s.pending = some p) (idle : s.inflight = false) (settled : s.settled = true) (clear : s.instrend = false) :
      Change s i (s.performFrame p)
  | barrier (k : Barrier) (row : Pc)
      (h : (k = .dsb ∧ row = .s6Dsb ∧ (i = .dsb ∨ (i = .exec ∧ s.pc = .s6Dsb))) ∨
        (k = .isb ∧ row = .s6Isb ∧ (i = .isb ∨ (i = .exec ∧ s.pc = .s6Isb)))) :
      Change s i ((s.log (.barrier k)).advanceAt row)
  | complete (p : FrameRecord) (h : i = .complete) (pending : s.pending = some p) (inflight : s.inflight = true)
      (free : s.frameWedged p.seq = false) :
      Change s i ({ s with instrend := true, inflight := false, pending := none }.log (.complete p.seq))
  | polled (h : i = .rdIntflag ∨ (i = .exec ∧ s.pc = .s6Poll)) (set : s.instrend = true) :
      Change s i ((s.drew.log (.regRead .intflag (intflagWord s.instrend s.drawnBits))).advanceAt .s6Poll)
  | cleared (h : i = .clrIntflag ∨ (i = .exec ∧ s.pc = .s6Clr)) :
      Change s i (({ s with instrend := instrendAfterWrite s.instrend instrendMask }.log
        (.regWrite .intflag instrendMask)).advanceAt .s6Clr)
  | disabled (h : i = .cacheDisable ∨ (i = .exec ∧ s.pc = .s2Dis)) : Change s i ((s.writeCmccCtrl 0).advanceAt .s2Dis)
  | enabled (h : i = .cacheEnable ∨ (i = .exec ∧ s.pc = .s7)) : Change s i ((s.writeCmccCtrl 1).advanceAt .s7)
  | clean (h : i = .rdCmccSr ∨ (i = .exec ∧ s.pc = .s2Poll)) (off : s.csts = false) :
      Change s i ((s.log (.regRead .cmccSr 0)).advanceAt .s2Poll)
  | invalidated (h : i = .cacheInvalidate ∨ (i = .exec ∧ s.pc = .s2Inv)) (off : s.csts = false) :
      Change s i (({ s with lines := [] }.log .cacheInvalidate).advanceAt .s2Inv)
  | cacheStatus (h : i = .cacheSettle) (on : s.settleEnabled = true) :
      Change s i ({ s with csts := s.cen }.log (.cacheStatus s.cen))
  | checked (h : i = .exec) (row : s.pc = .check) (ok : s.req.firstFailing s.cfg = none) (on : s.enable = true) :
      Change s i s.stepPc
  | pointer (h : i = .exec) (row : s.pc = .s1) : Change s i s.windowPointer
  | returned (h : i = .exec) (row : s.pc = .ret) : Change s i s.returnRequest
  | submitted (r : Request) (h : i.submits = true) (same : exec i s = exec (.submit r) s) (free : s.busy = false) :
      Change s i ({ s with req := r, rx := [], busy := true, pc := .check }.log (.request r))
  | clock (hz : Nat) (h : i = .setclk hz) (free : s.busy = false) : Change s i { s with clockHz := hz }
  | encoded (d : Descriptor) (txPresent : Bool) (length : Word) (h : i = .encode d txPresent length) :
      Change s i (s.encodeOut d txPresent length)

/-- A submission is a fault or the latching of its request. -/
theorem Change.of_submit (s : State) (i : Instr) (r : Request) (hi : i.submits = true) (h : exec i s = exec (.submit r) s) :
    Change s i (s.submitRequest r) := by
  rcases s.submitRequest_cases r with ⟨-, e⟩ | ⟨hb, e⟩ <;> rw [e]
  · exact .raised _ _
  · exact .submitted r hi h hb

/-- An executor step at each row. -/
theorem Change.of_executor (s : State) : Change s .exec s.executorStep := by
  have held : Change s .exec s := .held (by simp)
  unfold State.executorStep
  split
  · exact held
  · next hp =>
    rcases s.checkEntry_cases with ⟨c, -, e⟩ | ⟨-, -, e⟩ | ⟨h, he, e⟩ <;> rw [e]
    · exact .raised _ _
    · exact .raised _ _
    · exact .checked rfl hp h he
  · next hp => exact .pointer rfl hp
  · next hp => exact .disabled (.inr ⟨rfl, hp⟩)
  · next hp =>
    rcases s.pollClean_cases with ⟨-, e⟩ | ⟨h, e⟩ <;> rw [e]
    · exact held
    · exact .clean (.inr ⟨rfl, hp⟩) h
  · next hp =>
    rcases s.invalidateCache_cases with ⟨-, e⟩ | ⟨h, e⟩ <;> rw [e]
    · exact .raised _ _
    · exact .invalidated (.inr ⟨rfl, hp⟩) h
  · next hp =>
    rcases s.programOpcode_cases s.req.instruction.opcode with ⟨-, e⟩ | ⟨h, e⟩ <;> rw [e]
    · exact .raised _ _
    · exact .opcode _ (.inr ⟨rfl, hp, rfl⟩) h
  · next hp =>
    rcases s.programAddress_cases s.programmedAddress with ⟨-, e⟩ | ⟨h, e⟩ <;> rw [e]
    · exact .raised _ _
    · exact .address _ (.inr ⟨rfl, hp, rfl⟩) h
  · next hp =>
    rcases s.programFrame_cases s.requestWord with ⟨-, e⟩ | ⟨-, -, e⟩ | ⟨h, hr, e⟩ <;> rw [e]
    · exact .raised _ _
    · exact .raised _ _
    · exact .frame _ (.inr ⟨rfl, hp, rfl⟩) h hr
  · next hp => exact .settle (.inr ⟨rfl, hp⟩)
  · next n hp =>
    rcases s.copyByte_cases n with ⟨hw, e⟩ | ⟨hw, e⟩ <;> rw [e]
    · rcases s.windowWrite_cases (s.copyOffset n) (s.bufferByte n) with ⟨c, e⟩ | ⟨p, h, hf, e⟩ <;> rw [e]
      · exact .raised _ _
      · exact .write p _ _ (.inr ⟨rfl, hw, n, hp, rfl, rfl⟩) h hf
    · rcases s.windowRead_cases (s.copyOffset n) with ⟨c, e⟩ | ⟨p, h, hf, e⟩ <;> rw [e]
      · exact .raised _ _
      · exact .read p _ (.inr ⟨rfl, hw, n, hp, rfl⟩) h hf
  · next hp =>
    rcases s.startTransfer_cases with ⟨c, -, e⟩ | ⟨p, -, h, h1, h2, h3, e⟩ <;> rw [e]
    · exact .raised _ _
    · exact .perform p (.inr (.inr ⟨rfl, hp⟩)) h h1 h2 h3
  · next hp => exact .barrier .dsb .s6Dsb (.inl ⟨rfl, rfl, .inr ⟨rfl, hp⟩⟩)
  · next hp => exact .barrier .isb .s6Isb (.inr ⟨rfl, rfl, .inr ⟨rfl, hp⟩⟩)
  · next hp =>
    rcases s.pollComplete_cases with ⟨-, e⟩ | ⟨h, e⟩ <;> rw [e]
    · exact held
    · exact .polled (.inr ⟨rfl, hp⟩) h
  · next hp => exact .cleared (.inr ⟨rfl, hp⟩)
  · next hp => exact .enabled (.inr ⟨rfl, hp⟩)
  · next hp => exact .returned rfl hp

/-- An access of the block: refused, or its effect. -/
theorem Change.of_access {s : State} {i : Instr} {atRow : Bool} {f : State → State} (hi : i.isAccess = true)
    (h : Change s i (f s)) : Change s i (s.access atRow f) := by
  rcases s.access_cases atRow f with ⟨e, -⟩ | ⟨e, hb, -⟩ <;> rw [e]
  · exact h
  · exact .refused hi hb

/-- A frame instruction: a fault, or the pending frame of its word performed. -/
theorem Change.of_perform {s : State} {i : Instr} {w : Word}
    (h : ∀ p : FrameRecord, p.word = w → s.pending = some p → s.inflight = false → s.settled = true → s.instrend = false →
      Change s i (s.performFrame p)) : Change s i (s.performWord w) := by
  rcases s.performWord_cases w with ⟨c, e⟩ | ⟨p, hp, hw, h1, h2, h3, e⟩ <;> rw [e]
  · exact .raised _ _
  · exact h p hw hp h1 h2 h3

/-- Every effect is one of the listed changes. -/
theorem Change.of_effect (i : Instr) (s : State) : Change s i (effect i s) := by
  cases i with
  | frameRead f => exact Change.of_access (f := (·.performWord _)) rfl (.of_perform fun p hw hp h1 h2 h3 =>
      .perform p (.inr (.inl ⟨f, .inl ⟨rfl, hw⟩⟩)) hp h1 h2 h3)
  | frameReadMemory f => exact Change.of_access (f := (·.performWord _)) rfl (.of_perform fun p hw hp h1 h2 h3 =>
      .perform p (.inr (.inl ⟨f, .inr (.inl ⟨rfl, hw⟩)⟩)) hp h1 h2 h3)
  | frameWrite f => exact Change.of_access (f := (·.performWord _)) rfl (.of_perform fun p hw hp h1 h2 h3 =>
      .perform p (.inr (.inl ⟨f, .inr (.inr (.inl ⟨rfl, hw⟩))⟩)) hp h1 h2 h3)
  | frameWriteMemory f => exact Change.of_access (f := (·.performWord _)) rfl (.of_perform fun p hw hp h1 h2 h3 =>
      .perform p (.inr (.inl ⟨f, .inr (.inr (.inr ⟨rfl, hw⟩))⟩)) hp h1 h2 h3)
  | runCommand op nocache => exact .of_submit s _ _ rfl rfl
  | readCommand op len nocache => exact .of_submit s _ _ rfl rfl
  | writeCommand op bytes nocache => exact .of_submit s _ _ rfl rfl
  | writeCommandLen0 op nocache => exact .of_submit s _ _ rfl rfl
  | eraseCommand op address nocache => exact .of_submit s _ _ rfl rfl
  | readMemory address len nocache => exact .of_submit s _ _ rfl rfl
  | writeMemory address bytes nocache => exact .of_submit s _ _ rfl rfl
  | wrInstrctrl op =>
    refine Change.of_access (f := (·.programOpcode op)) rfl ?_
    rcases s.programOpcode_cases op with ⟨-, e⟩ | ⟨h, e⟩ <;> rw [e]
    · exact .raised _ _
    · exact .opcode _ (.inl rfl) h
  | wrInstraddr a =>
    refine Change.of_access (f := (·.programAddress a)) rfl ?_
    rcases s.programAddress_cases a with ⟨-, e⟩ | ⟨h, e⟩ <;> rw [e]
    · exact .raised _ _
    · exact .address _ (.inl rfl) h
  | wrInstrframe w =>
    refine Change.of_access (f := (·.programFrame w)) rfl ?_
    rcases s.programFrame_cases w with ⟨-, e⟩ | ⟨-, -, e⟩ | ⟨h, hr, e⟩ <;> rw [e]
    · exact .raised _ _
    · exact .raised _ _
    · exact .frame _ (.inl rfl) h hr
  | rdInstrframe => exact Change.of_access (f := (·.settleRead)) rfl (.settle (.inl rfl))
  | winRd o =>
    refine Change.of_access (f := (·.windowRead o.toNat)) rfl ?_
    rcases s.windowRead_cases o.toNat with ⟨c, e⟩ | ⟨p, h, hf, e⟩ <;> rw [e]
    · exact .raised _ _
    · exact .read p _ (.inl ⟨o, rfl, rfl⟩) h hf
  | winWr o v =>
    refine Change.of_access (f := (·.windowWrite o.toNat v)) rfl ?_
    rcases s.windowWrite_cases o.toNat v with ⟨c, e⟩ | ⟨p, h, hf, e⟩ <;> rw [e]
    · exact .raised _ _
    · exact .write p _ _ (.inl ⟨o, rfl, rfl⟩) h hf
  | start =>
    refine Change.of_access (f := (·.startTransfer)) rfl ?_
    rcases s.startTransfer_cases with ⟨c, -, e⟩ | ⟨p, -, h, h1, h2, h3, e⟩ <;> rw [e]
    · exact .raised _ _
    · exact .perform p (.inl rfl) h h1 h2 h3
  | rdIntflag =>
    refine Change.of_access (f := (·.pollComplete)) rfl ?_
    rcases s.pollComplete_cases with ⟨-, e⟩ | ⟨h, e⟩ <;> rw [e]
    · exact .held (by simp)
    · exact .polled (.inl rfl) h
  | clrIntflag => exact Change.of_access (f := (·.clearFlag)) rfl (.cleared (.inl rfl))
  | cacheDisable => exact Change.of_access (f := (·.disableCache)) rfl (.disabled (.inl rfl))
  | cacheEnable => exact Change.of_access (f := (·.enableCache)) rfl (.enabled (.inl rfl))
  | rdCmccSr =>
    refine Change.of_access (f := (·.pollClean)) rfl ?_
    rcases s.pollClean_cases with ⟨-, e⟩ | ⟨h, e⟩ <;> rw [e]
    · exact .held (by simp)
    · exact .clean (.inl rfl) h
  | cacheInvalidate =>
    refine Change.of_access (f := (·.invalidateCache)) rfl ?_
    rcases s.invalidateCache_cases with ⟨-, e⟩ | ⟨h, e⟩ <;> rw [e]
    · exact .raised _ _
    · exact .invalidated (.inl rfl) h
  | dsb => exact .barrier .dsb .s6Dsb (.inl ⟨rfl, rfl, .inl rfl⟩)
  | isb => exact .barrier .isb .s6Isb (.inr ⟨rfl, rfl, .inl rfl⟩)
  | complete =>
    change Change s _ s.completeFrame
    rcases s.completeFrame_cases with e | ⟨p, hp, hi, hw, e⟩ <;> rw [e]
    · exact .held (by simp)
    · exact .complete p rfl hp hi hw
  | cacheSettle =>
    change Change s _ s.settleCache
    rcases s.settleCache_cases with ⟨-, e⟩ | ⟨h, e⟩ <;> rw [e]
    · exact .held (by simp)
    · exact .cacheStatus rfl h
  | encode d txPresent length => exact .encoded d txPresent length rfl
  | exec => exact .of_executor s
  | submit r => exact .of_submit s _ _ rfl rfl
  | setclk hz =>
    change Change s _ (s.setClock hz)
    rcases s.setClock_cases hz with ⟨-, e⟩ | ⟨h, e⟩ <;> rw [e]
    · exact .raised _ _
    · exact .clock hz rfl h

/-- exec answers a next state only from a live state, and only by one of the listed changes. -/
theorem Change.of_exec {i : Instr} {s t : State} (h : exec i s = .next t) : s.faults = [] ∧ Change s i t := by
  obtain ⟨hl, rfl⟩ := exec_next.mp h
  exact ⟨hl, .of_effect i s⟩

end Sys2Proof.Machine
end

