-- ==== Sys2Proof/Laws/Encoder.lean ====
section
/-! SUPPORT. Which bit of a frame word is which field's (30_encoding.md R52), and how rows are selected (R67). -/

namespace Sys2Proof

/-- A one-bit field is 0 outside its bit. -/
theorem bitField_bit (b : Bool) (k j : Nat) (hj : j < 32) : (bitField b k).getLsbD j = (b && decide (j = k)) := by
  cases b <;> simp [bitField, hj, BitVec.getElem_twoPow]

/-- Every bit of a frame word. -/
theorem frameWord_bit (t : BitVec 2) (f : FrameFields) (i : Nat) (h : i < 32) :
    (frameWord t f).getLsbD i =
      if i < 3 then f.width.getLsbD i
      else if i = 4 then f.instrEn
      else if i = 5 then f.addrEn
      else if i = 6 then f.optEn
      else if i = 7 then f.dataEn
      else if i = 8 then f.optLen.getLsbD 0
      else if i = 9 then f.optLen.getLsbD 1
      else if i = 10 then f.addrLen.bit
      else if i = 12 then t.getLsbD 0
      else if i = 13 then t.getLsbD 1
      else if i = 14 then f.crMode
      else if i = 15 then f.ddrEn
      else if 16 ≤ i ∧ i < 21 then f.dummy.getLsbD (i - 16)
      else false := by
  unfold frameWord
  simp only [BitVec.getLsbD_or, bitField_bit _ _ _ h, BitVec.getLsbD_shiftLeft, BitVec.getLsbD_setWidth, h]
  interval_cases i <;> simp [BitVec.getLsbD_of_ge]

/-- The length an `ADDRLEN` bit selects is the one the bit was made from. -/
@[simp] theorem AddrLen.ofBit_bit (a : AddrLen) : AddrLen.ofBit a.bit = a := by cases a <;> rfl

/-- The bit of the length an `ADDRLEN` bit selects. -/
@[simp] theorem AddrLen.bit_ofBit (b : Bool) : (AddrLen.ofBit b).bit = b := by cases b <;> rfl

/-- A width code is never the reserved one (R75). -/
theorem IoWidth.code_ne_seven (x : IoWidth) : x.code ≠ 7 := by cases x <;> decide

/-- A row's number selects the row. -/
theorem Row.number_select (r : Row) : Row.ofNumber r.number = some r ∧ r.number ≠ 0 ∧ r.number ≠ 0xFF := by
  cases r <;> decide

/-- A frame word has no reserved encoding where its `WIDTH` is not 7. -/
theorem reservedWord_frameWord (t : BitVec 2) (f : FrameFields) (h : f.width ≠ 7) : reservedWord (frameWord t f) = false := by
  have hw : (frameWord t f).extractLsb' 0 3 = f.width := by
    apply BitVec.eq_of_getLsbD_eq
    intro i hi
    rw [BitVec.getLsbD_extractLsb', Nat.zero_add, frameWord_bit _ _ _ (by omega)]
    simp [hi]
  have hz : (frameWord t f).extractLsb' 21 11 = 0 := by
    apply BitVec.eq_of_getLsbD_eq
    intro i hi
    rw [BitVec.getLsbD_extractLsb', frameWord_bit _ _ _ (by omega)]
    interval_cases i <;> rfl
  unfold reservedWord
  rw [hw, hz, frameWord_bit _ _ 3 (by decide), frameWord_bit _ _ 11 (by decide)]
  simpa using h

/-- The type of a frame word is the one it was made of. -/
theorem tfrType_frameWord (t : BitVec 2) (f : FrameFields) : tfrType (frameWord t f) = t := by
  apply BitVec.eq_of_getLsbD_eq
  intro i hi
  unfold tfrType
  rw [BitVec.getLsbD_extractLsb', frameWord_bit _ _ _ (by omega)]
  interval_cases i <;> simp

/-- The fields of a frame word are the ones it was made of (R52, R68). -/
theorem frameFields_frameWord (t : BitVec 2) (f : FrameFields) : frameFields (frameWord t f) = f := by
  have part (start len : Nat) (v : BitVec len) (h : start + len ≤ 32)
      (hb : ∀ i < len, (frameWord t f).getLsbD (start + i) = v.getLsbD i) : (frameWord t f).extractLsb' start len = v := by
    apply BitVec.eq_of_getLsbD_eq
    intro i hi
    rw [BitVec.getLsbD_extractLsb', hb i hi]; simp [hi]
  have hw : (frameWord t f).extractLsb' 0 3 = f.width :=
    part 0 3 _ (by omega) fun i hi => by rw [frameWord_bit _ _ _ (by omega)]; simp [hi]
  have ho : (frameWord t f).extractLsb' 8 2 = f.optLen :=
    part 8 2 _ (by omega) fun i hi => by rw [frameWord_bit _ _ _ (by omega)]; interval_cases i <;> simp
  have hd : (frameWord t f).extractLsb' 16 5 = f.dummy :=
    part 16 5 _ (by omega) fun i hi => by rw [frameWord_bit _ _ _ (by omega)]; interval_cases i <;> simp
  unfold frameFields
  rw [hw, ho, hd, frameWord_bit t f 4 (by decide), frameWord_bit t f 5 (by decide), frameWord_bit t f 6 (by decide),
    frameWord_bit t f 7 (by decide), frameWord_bit t f 10 (by decide), frameWord_bit t f 14 (by decide),
    frameWord_bit t f 15 (by decide)]
  simp

/-- A window offset's address lies in the window. -/
theorem inWindow_offset (p : Params) (h : p.wf = true) (o : Word) (ho : o.toNat < p.windowSize) :
    p.inWindow (p.windowBase + o) = true := by
  have hb : p.windowBase.toNat + p.windowSize ≤ 2 ^ 32 := by simp [Params.wf] at h; omega
  simp [Params.inWindow, BitVec.toNat_add]
  omega

/-- A natural number is read back from its bytes, whatever follows them. -/
theorem takeNat_natBytesUpTo (fuel n : Nat) (h : n < 128 ^ (fuel + 1)) (rest : List Byte) :
    takeNat (natBytesUpTo fuel n ++ rest) = .ok (n, rest) := by
  induction fuel generalizing n with
  | zero =>
    have h : n < 128 := by omega
    simp [natBytesUpTo, takeNat, Nat.mod_eq_of_lt (show n < 256 by omega), h]
  | succ fuel ih =>
    unfold natBytesUpTo
    split
    · next hn => simp [takeNat, Nat.mod_eq_of_lt (show n < 256 by omega), hn]
    · next hn =>
      have hd : n / 128 < 128 ^ (fuel + 1) := by
        rw [Nat.div_lt_iff_lt_mul (by decide)]; rw [pow_succ] at h; exact h
      have hb : (BitVec.ofNat 8 (n % 128 + 128)).toNat = n % 128 + 128 := by simp; omega
      simp only [List.cons_append, takeNat, hb, ih _ hd, chain]
      rw [if_neg (by omega), Nat.add_sub_cancel, Nat.div_add_mod']

/-- A natural number operand is read back (Log 8). -/
theorem takeNat_natBytes (n : Nat) (rest : List Byte) : takeNat (natBytes n ++ rest) = .ok (n, rest) := by
  refine takeNat_natBytesUpTo _ _ ?_ rest
  calc n < 2 ^ (n.log2 + 1) := Nat.lt_log2_self
    _ ≤ 128 ^ (n.log2 + 1) := Nat.pow_le_pow_left (by decide) _

/-- No byte of a register is in the window (R43). -/
theorem regBytes_not_inWindow (p : Params) (h : p.wf = true) (r : Reg) : ∀ a ∈ p.regBytes r, p.inWindow a = false := by
  intro a ha
  simp only [Params.wf, Bool.and_eq_true, List.all_eq_true] at h
  simpa using h.1.1.2 r (by cases r <;> simp [Reg.all]) a ha

end Sys2Proof
end

