-- ==== Sys2Proof/Laws/Forms.lean ====
section
/-! SUPPORT. The shared operations as one update of a state, the form a statement about an instruction's next state takes; an
access that is let through; and how a property of every exec becomes one of every step. -/

namespace Sys2Proof.Machine

/-! ## Which accesses are let through -/

/-- No frame is held exactly when none is in flight and none is pending (R88-R90). -/
theorem State.frameHeld_false {s : State} : s.frameHeld = false ↔ s.inflight = false ∧ s.pending = none := by
  unfold State.frameHeld; cases s.inflight <;> cases s.pending <;> simp

/-- A frame is held exactly when one is in flight or pending. -/
theorem State.frameHeld_true {s : State} : s.frameHeld = true ↔ s.inflight = true ∨ s.pending ≠ none := by
  unfold State.frameHeld; cases s.inflight <;> cases s.pending <;> simp

/-- An access that the executor issues, or with no request in progress, has its effect. -/
theorem State.access_own {s : State} {own : Bool} (f : State → State) (h : s.busy = false ∨ own = true) :
    s.access own f = f s := by
  unfold State.access; rcases h with h | h <;> simp [h]

/-- Any other sets the refused mark. -/
theorem State.access_other {s : State} (f : State → State) (h : s.busy = true) : s.access false f = { s with refused := true } := by
  simp [State.access, h]

/-- A register write of the request's value is the executor's. -/
theorem State.access_mayWrite {α : Type} [BEq α] [LawfulBEq α] {s : State} {row : Pc} {v own : α} (f : State → State)
    (h : s.mayWrite row v own) : s.access (s.pc == row && v == own) f = f s :=
  State.access_own f (h.imp id fun h => by simp [h])

/-- A register access without operand at its row is the executor's. -/
theorem State.access_mayAccess {s : State} {row : Pc} (f : State → State) (h : s.mayAccess row) :
    s.access (s.pc == row) f = f s :=
  State.access_own f (h.imp id fun h => by simp [h])

/-- The read of the byte the executor copies next is the executor's. -/
theorem State.access_mayCopyIn {s : State} {o : Word} (f : State → State) (h : s.mayCopyIn o) :
    s.access (s.issues (.winRd o)) f = f s :=
  State.access_own f (h.imp id fun ⟨n, hp, hw, ho⟩ => by
    simp only [State.issues, hp, writeBit, hw, ho, State.copyOffset]; simp)

/-- The write of the byte the executor copies next is the executor's. -/
theorem State.access_mayCopyOut {s : State} {o : Word} {v : Byte} (f : State → State) (h : s.mayCopyOut o v) :
    s.access (s.issues (.winWr o v)) f = f s :=
  State.access_own f (h.imp id fun ⟨n, hp, hw, ho, hb⟩ => by
    simp only [State.issues, hp, writeBit, hw, ho, hb, State.copyOffset]; simp)

/-- The copy rows. -/
theorem State.atCopy_iff (s : State) : s.atCopy = true ↔ ∃ n, s.pc = .s5 n := by
  unfold State.atCopy; split <;> simp_all

/-! ## Operations as updates -/

theorem State.advanceAt_eq (s : State) (row : Pc) :
    s.advanceAt row = { s with pc := if s.pc = row then s.nextPc else s.pc } := by
  unfold State.advanceAt State.stepPc; split <;> rfl

theorem State.copied_eq (s : State) (received : List Byte) :
    s.copied received = { s with rx := if s.atCopy then s.rx ++ received else s.rx, pc := s.pcAfterCopy } := by
  unfold State.copied State.atCopy State.pcAfterCopy
  cases h : s.pc <;> simp [State.stepPc, State.nextPc] <;> (conv_rhs => rw [← h])

/-- Performing a frame: two events, `ENABLE` and `inflight` set (R94). -/
theorem State.performFrame_eq (s : State) (p : FrameRecord) :
    s.performFrame p = { s with
      enable := true, inflight := true,
      history := s.history ++ [.frame (frameEventOf p s.optCode), .regWrite .ctrla startWord],
      pc := if s.pc = .s6Start then .s6Dsb else s.pc } := by
  simp [State.performFrame, State.advanceAt_eq, State.log, State.nextPc]
  split <;> simp_all

theorem State.faultedWith_eq (s : State) (code : FaultCode) (info : FaultInfo) : s.faultedWith code info = s.raise code info := rfl

theorem State.submitted_eq (s : State) (r : Request) (h : s.busy = false) : s.submitRequest r = s.submitted r := by
  simp [State.submitRequest, h]; rfl

/-- The low address bits as a number (R19, R58). -/
theorem AddrLen.low_toNat (a : AddrLen) (v : Word) : (a.low v).toNat = v.toNat % 2 ^ a.bits := by
  cases a
  · simp only [AddrLen.low, AddrLen.bits, BitVec.toNat_and]
    exact Nat.and_two_pow_sub_one_eq_mod v.toNat 24
  · simp only [AddrLen.low, AddrLen.bits]; omega

/-- Which check of a window access fails first, in the terms of R92 and R93. -/
theorem State.windowFault_order (s : State) (p : FrameRecord) (o : Nat) (write : Bool) :
    (s.inflight = true ∨ p.word.getLsbD 7 = false → s.windowFault p o write = some .noFrame)
    ∧ (s.inflight = false → p.word.getLsbD 7 = true →
      (s.settled = false → s.windowFault p o write = some .unsettledFrame)
      ∧ (s.settled = true → p.word.getLsbD 13 = !write → s.windowFault p o write = some .windowDirection)
      ∧ (s.settled = true → p.word.getLsbD 13 = write → o ≠ p.next →
        s.windowFault p o write = some .windowNonSequential)
      ∧ (s.settled = true → p.word.getLsbD 13 = write → o = p.next → s.cfg.cachePresent = true → s.csts = true →
        s.windowFault p o write = some .cacheActiveDataPhase)
      ∧ (s.settled = true → p.word.getLsbD 13 = write → o = p.next → s.cfg.cachePresent = false ∨ s.csts = false →
        s.windowFault p o write = none)) := by
  unfold State.windowFault dataEn writeBit
  generalize p.word.getLsbD 7 = hasData
  generalize p.word.getLsbD 13 = isWrite
  refine ⟨?_, fun h1 h2 => ⟨fun h3 => ?_, fun h3 h4 => ?_, fun h3 h4 h5 => ?_, fun h3 h4 h5 h6 h7 => ?_,
    fun h3 h4 h5 h6 => ?_⟩⟩
  · rintro (h | h) <;> simp [h]
  · simp [h1, h2, h3]
  · simp [h1, h2, h3, h4]
  · simp [h1, h2, h3, h4, h5]
  · simp [h1, h2, h3, h4, h5, h6, h7]
  · rcases h6 with h6 | h6 <;> simp [h1, h2, h3, h4, h5, h6]

/-! ## From exec to step -/

/-- A property of every exec that neither the script nor the draw counter touches is one of every step, if a foreign access
has it. -/
theorem step_keeps (P : State → State → Prop) (onExec : ∀ s t i, exec i s = .next t → P s t)
    (onScript : ∀ s rest t, P { s with script := rest } t → P s t) (onDraw : ∀ s t, P s.drew t → P s t)
    (onTaken : ∀ s rest, P s { s with script := rest })
    (onRefused : ∀ s rest, P s { s with script := rest, refused := true }) : ∀ s t, step s = .next t → P s t := by
  intro s t h
  rcases step_cases h with ⟨i, rest, -, h⟩ | ⟨a, rest, -, rfl⟩ | ⟨-, h⟩
  · exact onScript s rest t (onExec _ _ _ h)
  · unfold State.foreignAccess; split
    · exact onRefused s rest
    · exact onTaken s rest
  · exact onDraw s t (onExec _ _ _ h)

end Sys2Proof.Machine
end

