-- ==== Sys2Proof/Laws/PerInstr.lean ====
section
/-! SUPPORT. For every instruction: the word its encoding begins with is one of its row's words, and its row number selects
its row (30_encoding.md R67, Log 8). -/

namespace Sys2Proof.Laws.RowWord

/-- The row an instruction's word and number select is its own. -/
def Statement (i : Instr) : Prop :=
  ∀ p : Params, p.wf = true → i.wellFormed p = true →
    i.row.matchesWord p (i.tableWord p) = true ∧ Row.ofNumber i.row.number = some i.row
      ∧ i.row.number ≠ 0 ∧ i.row.number ≠ 0xFF


theorem frameRead (f : FrameFields) : Statement (.frameRead f) := by
  intro p _ h
  refine ⟨?_, Row.number_select _⟩
  simp only [Instr.wellFormed, bne_iff_ne, ne_eq] at h
  simp [Instr.row, Row.matchesWord, Instr.tableWord, isFrame, tfrType_frameWord, reservedWord_frameWord _ _ h]

theorem frameReadMemory (f : FrameFields) : Statement (.frameReadMemory f) := by
  intro p _ h
  refine ⟨?_, Row.number_select _⟩
  simp only [Instr.wellFormed, bne_iff_ne, ne_eq] at h
  simp [Instr.row, Row.matchesWord, Instr.tableWord, isFrame, tfrType_frameWord, reservedWord_frameWord _ _ h]

theorem frameWrite (f : FrameFields) : Statement (.frameWrite f) := by
  intro p _ h
  refine ⟨?_, Row.number_select _⟩
  simp only [Instr.wellFormed, bne_iff_ne, ne_eq] at h
  simp [Instr.row, Row.matchesWord, Instr.tableWord, isFrame, tfrType_frameWord, reservedWord_frameWord _ _ h]

theorem frameWriteMemory (f : FrameFields) : Statement (.frameWriteMemory f) := by
  intro p _ h
  refine ⟨?_, Row.number_select _⟩
  simp only [Instr.wellFormed, bne_iff_ne, ne_eq] at h
  simp [Instr.row, Row.matchesWord, Instr.tableWord, isFrame, tfrType_frameWord, reservedWord_frameWord _ _ h]

theorem runCommand (op : Byte) (nocache : Bool) : Statement (.runCommand op nocache) := by
  intro p _ _
  refine ⟨?_, Row.number_select _⟩
  cases h : p.addrLen <;> simp [Instr.row, Row.matchesWord, Instr.tableWord, hasBits, addrLenWord, AddrLen.bit, h]

theorem readCommand (op : Byte) (len : Word) (nocache : Bool) : Statement (.readCommand op len nocache) := by
  intro p _ _
  refine ⟨?_, Row.number_select _⟩
  cases h : p.addrLen <;> simp [Instr.row, Row.matchesWord, Instr.tableWord, hasBits, addrLenWord, AddrLen.bit, h]

theorem writeCommand (op : Byte) (bytes : List Byte) (nocache : Bool) : Statement (.writeCommand op bytes nocache) := by
  intro p _ _
  refine ⟨?_, Row.number_select _⟩
  cases h : p.addrLen <;> simp [Instr.row, Row.matchesWord, Instr.tableWord, hasBits, addrLenWord, AddrLen.bit, h]

theorem writeCommandLen0 (op : Byte) (nocache : Bool) : Statement (.writeCommandLen0 op nocache) := by
  intro p _ _
  refine ⟨?_, Row.number_select _⟩
  cases h : p.addrLen <;> simp [Instr.row, Row.matchesWord, Instr.tableWord, hasBits, addrLenWord, AddrLen.bit, h]

theorem eraseCommand (op : Byte) (address : Word) (nocache : Bool) : Statement (.eraseCommand op address nocache) := by
  intro p _ _
  refine ⟨?_, Row.number_select _⟩
  cases h : p.addrLen <;> simp [Instr.row, Row.matchesWord, Instr.tableWord, hasBits, addrLenWord, AddrLen.bit, h]

theorem readMemory (address len : Word) (nocache : Bool) : Statement (.readMemory address len nocache) := by
  intro p _ _
  refine ⟨?_, Row.number_select _⟩
  have hd : ∀ d : BitVec 5, ∀ b : Bool,
      (0x000010B2 ||| (if b then 0x00000400 else 0) ||| (d.setWidth 32 <<< 16) : Word) &&& 0xFFE0FBFF = 0x000010B2 := by decide
  simpa [Instr.row, Row.matchesWord, Instr.tableWord, hasBits, addrLenWord] using hd p.qreadDummy p.addrLen.bit

theorem writeMemory (address : Word) (bytes : List Byte) (nocache : Bool) : Statement (.writeMemory address bytes nocache) := by
  intro p _ _
  refine ⟨?_, Row.number_select _⟩
  cases h : p.addrLen <;> simp [Instr.row, Row.matchesWord, Instr.tableWord, hasBits, addrLenWord, AddrLen.bit, h]

theorem wrInstrctrl (op : Byte) : Statement (.wrInstrctrl op) := by
  intro p _ _
  exact ⟨by simp [Instr.row, Row.matchesWord, Instr.tableWord], Row.number_select _⟩

theorem wrInstraddr (a : Word) : Statement (.wrInstraddr a) := by
  intro p _ _
  exact ⟨by simp [Instr.row, Row.matchesWord, Instr.tableWord], Row.number_select _⟩

theorem wrInstrframe (w : Word) : Statement (.wrInstrframe w) := by
  intro p _ _
  exact ⟨by simp [Instr.row, Row.matchesWord, Instr.tableWord], Row.number_select _⟩

theorem rdInstrframe : Statement .rdInstrframe := by
  intro p _ _
  exact ⟨by simp [Instr.row, Row.matchesWord, Instr.tableWord], Row.number_select _⟩

theorem winRd (o : Word) : Statement (.winRd o) := by
  intro p hp h
  simp only [Instr.wellFormed, decide_eq_true_eq] at h
  exact ⟨inWindow_offset p hp o h, Row.number_select _⟩

theorem winWr (o : Word) (v : Byte) : Statement (.winWr o v) := by
  intro p hp h
  simp only [Instr.wellFormed, decide_eq_true_eq] at h
  exact ⟨inWindow_offset p hp o h, Row.number_select _⟩

theorem start : Statement .start := by
  intro p _ _
  exact ⟨by simp [Instr.row, Row.matchesWord, Instr.tableWord], Row.number_select _⟩

theorem rdIntflag : Statement .rdIntflag := by
  intro p _ _
  exact ⟨by simp [Instr.row, Row.matchesWord, Instr.tableWord], Row.number_select _⟩

theorem clrIntflag : Statement .clrIntflag := by
  intro p _ _
  exact ⟨by simp [Instr.row, Row.matchesWord, Instr.tableWord], Row.number_select _⟩

theorem cacheDisable : Statement .cacheDisable := by
  intro p _ _
  exact ⟨by simp [Instr.row, Row.matchesWord, Instr.tableWord], Row.number_select _⟩

theorem cacheEnable : Statement .cacheEnable := by
  intro p _ _
  exact ⟨by simp [Instr.row, Row.matchesWord, Instr.tableWord], Row.number_select _⟩

theorem rdCmccSr : Statement .rdCmccSr := by
  intro p _ _
  exact ⟨by simp [Instr.row, Row.matchesWord, Instr.tableWord], Row.number_select _⟩

theorem cacheInvalidate : Statement .cacheInvalidate := by
  intro p _ _
  exact ⟨by simp [Instr.row, Row.matchesWord, Instr.tableWord], Row.number_select _⟩

theorem dsb : Statement .dsb := by
  intro p _ _
  exact ⟨by simp [Instr.row, Row.matchesWord, Instr.tableWord], Row.number_select _⟩

theorem isb : Statement .isb := by
  intro p _ _
  exact ⟨by simp [Instr.row, Row.matchesWord, Instr.tableWord], Row.number_select _⟩

theorem complete : Statement .complete := by
  intro p _ _
  exact ⟨by simp [Instr.row, Row.matchesWord, Instr.tableWord], Row.number_select _⟩

theorem cacheSettle : Statement .cacheSettle := by
  intro p _ _
  exact ⟨by simp [Instr.row, Row.matchesWord, Instr.tableWord], Row.number_select _⟩

theorem encode (d : Descriptor) (txPresent : Bool) (length : Word) : Statement (.encode d txPresent length) := by
  intro p _ _
  exact ⟨by simp [Instr.row, Row.matchesWord, Instr.tableWord], Row.number_select _⟩

theorem exec : Statement .exec := by
  intro p _ _
  exact ⟨by simp [Instr.row, Row.matchesWord, Instr.tableWord], Row.number_select _⟩

theorem submit (r : Request) : Statement (.submit r) := by
  intro p _ _
  exact ⟨by simp [Instr.row, Row.matchesWord, Instr.tableWord], Row.number_select _⟩

theorem setclk (hz : Nat) : Statement (.setclk hz) := by
  intro p _ _
  exact ⟨by simp [Instr.row, Row.matchesWord, Instr.tableWord], Row.number_select _⟩

end Sys2Proof.Laws.RowWord
end

