-- ==== Sys2Proof/Machine/Text.lean ====
section
/-! DEFINITION. The textual syntax of programs (30_encoding.md R70): one line is a request, a template or a clock rate, and
stands for the instruction that submits it or sets it. `--` begins a comment, as in the programs of 95_test_vectors.md. -/

namespace Sys2Proof.Text

open Sys2Proof.Machine

/-- Drop spaces. -/
def skipSpaces : List Char → List Char
  | ' ' :: cs => skipSpaces cs
  | cs        => cs

/-- Read the characters of a word, spaces before it allowed. -/
def word (w : List Char) (cs : List Char) : Option (List Char) :=
  let cs := skipSpaces cs
  if cs.take w.length = w then some (cs.drop w.length) else none

/-- The value of a hexadecimal digit. -/
def hexDigit (c : Char) : Option Nat :=
  if '0' ≤ c ∧ c ≤ '9' then some (c.toNat - 48)
  else if 'A' ≤ c ∧ c ≤ 'F' then some (c.toNat - 55)
  else if 'a' ≤ c ∧ c ≤ 'f' then some (c.toNat - 87)
  else none

/-- The value of a decimal digit. -/
def decDigit (c : Char) : Option Nat := if '0' ≤ c ∧ c ≤ '9' then some (c.toNat - 48) else none

/-- The digits after the first, `_` a separator (R9). -/
def moreDigits (base : Nat) (digit : Char → Option Nat) (acc : Nat) : List Char → Nat × List Char
  | [] => (acc, [])
  | c :: cs =>
    if c = '_' then moreDigits base digit acc cs
    else match digit c with
      | some d => moreDigits base digit (acc * base + d) cs
      | none   => (acc, c :: cs)

/-- A number of at least one digit. -/
def digits (base : Nat) (digit : Char → Option Nat) (cs : List Char) : Option (Nat × List Char) :=
  match cs with
  | c :: cs => (digit c).map (fun d => moreDigits base digit d cs)
  | []      => none

/-- `hex`: a hexadecimal literal (R9). -/
def hex (cs : List Char) : Option (Nat × List Char) := do
  let cs ← word ['0', 'x'] cs
  digits 16 hexDigit cs

/-- `dec`: a decimal literal. -/
def dec (cs : List Char) : Option (Nat × List Char) := digits 10 decDigit (skipSpaces cs)

/-- A hexadecimal literal that a byte holds. -/
def hexByte (cs : List Char) : Option (Byte × List Char) := do
  let (n, cs) ← hex cs
  if n < 2 ^ 8 then some (BitVec.ofNat 8 n, cs) else none

/-- A number that a word holds. -/
def asWord (r : Option (Nat × List Char)) : Option (Word × List Char) := do
  let (n, cs) ← r
  if n < 2 ^ 32 then some (BitVec.ofNat 32 n, cs) else none

/-- `bit`. -/
def bit : List Char → Option (Bool × List Char)
  | '0' :: cs => some (false, cs)
  | '1' :: cs => some (true, cs)
  | _         => none

/-- The rest of a byte list after its first byte; `fuel` bounds its length. -/
def moreBytes : Nat → List Char → Option (List Byte × List Char)
  | 0, _ => none
  | fuel + 1, cs =>
    match word [']'] cs with
    | some cs => some ([], cs)
    | none => do
      let cs ← word [','] cs
      let (b, cs) ← hexByte cs
      let (bs, cs) ← moreBytes fuel cs
      some (b :: bs, cs)

/-- `bytes ::= "[" [ hex { "," hex } ] "]"`. -/
def bytes (cs : List Char) : Option (List Byte × List Char) := do
  let cs ← word ['['] cs
  match word [']'] cs with
  | some cs => some ([], cs)
  | none => do
    let (b, cs) ← hexByte cs
    let (bs, cs) ← moreBytes (cs.length + 1) cs
    some (b :: bs, cs)

/-- One of a list of named values, the first whose name stands there. -/
def named {α : Type} (names : List (List Char × α)) (cs : List Char) : Option (α × List Char) :=
  names.findSome? (fun n => (word n.1 cs).map (fun cs => (n.2, cs)))

/-- `wname`; a longer name stands before its beginning. -/
def widthName : List Char → Option (IoWidth × List Char) :=
  named [("Single".toList, .single), ("DualIO".toList, .dualIO), ("DualCmd".toList, .dualCmd), ("Dual".toList, .dual),
    ("QuadIO".toList, .quadIO), ("QuadCmd".toList, .quadCmd), ("Quad".toList, .quad)]

/-- `dname`; a longer name stands before its beginning. -/
def directionName : List Char → Option (Direction × List Char) :=
  named [("ReadMemory".toList, .readMemory), ("Read".toList, .read), ("WriteMemory".toList, .writeMemory),
    ("Write".toList, .write)]

/-- The opening brace. -/
def openBrace : List Char := [Char.ofNat 123]

/-- The closing brace. -/
def closeBrace : List Char := [Char.ofNat 125]

/-- `desc` (R70, R64). -/
def desc (cs : List Char) : Option (Descriptor × List Char) := do
  let cs ← word openBrace cs
  let cs ← word "op=".toList cs
  let (opcode, cs) ← hexByte cs
  let cs ← word ",addr=".toList cs
  let (hasAddress, cs) ← bit cs
  let cs ← word ",data=".toList cs
  let (hasData, cs) ← bit cs
  let cs ← word ",dummy=".toList cs
  let (dummyCycles, cs) ← dec cs
  let cs ← word ",width=".toList cs
  let (ioWidth, cs) ← widthName cs
  let cs ← word ",dir=".toList cs
  let (direction, cs) ← directionName cs
  let cs ← word closeBrace cs
  some ({ opcode, hasAddress, hasData, dummyCycles, ioWidth, direction }, cs)

/-- `[ "addr=" hex ]`; an absent one is 0. -/
def addrPart (cs : List Char) : Option (Word × List Char) :=
  match word "addr=".toList cs with
  | some cs => asWord (hex cs)
  | none    => some (0, cs)

/-- `[ "tx=" bytes | "rx=" dec ]`: the role, the buffer and the length. -/
def dataPart (cs : List Char) : Option ((Role × List Byte × Word) × List Char) :=
  match word "tx=".toList cs with
  | some cs => do
    let (bs, cs) ← bytes cs
    some ((.tx, bs, BitVec.ofNat 32 bs.length), cs)
  | none =>
    match word "rx=".toList cs with
    | some cs => do
      let (n, cs) ← asWord (dec cs)
      some ((.rx, receiveSpace n, n), cs)
    | none => some ((.noBuffer, [], 0), cs)

/-- `[ "nocache" ]`. -/
def nocachePart (cs : List Char) : Bool × List Char :=
  match word "nocache".toList cs with
  | some cs => (true, cs)
  | none    => (false, cs)

/-- `"EXEC" desc …`, a request. -/
def requestLine (cs : List Char) : Option (Instr × List Char) := do
  let cs ← word "EXEC".toList cs
  let (instruction, cs) ← desc cs
  let (address, cs) ← addrPart cs
  let ((role, buffer, length), cs) ← dataPart cs
  let (optOut, cs) := nocachePart cs
  some (.submit { instruction, address, role, buffer, length, optOut }, cs)

/-- The part after a template's first argument: `")"`, then `[ "nocache" ]`. -/
def closing (cs : List Char) : Option (Bool × List Char) := do
  let cs ← word [')'] cs
  some (nocachePart cs)

/-- `runCommand(hex)`. -/
def runLine (cs : List Char) : Option (Instr × List Char) := do
  let cs ← word "runCommand(".toList cs
  let (op, cs) ← hexByte cs
  let (nocache, cs) ← closing cs
  some (.runCommand op nocache, cs)

/-- `readCommand(hex,dec)`. -/
def readLine (cs : List Char) : Option (Instr × List Char) := do
  let cs ← word "readCommand(".toList cs
  let (op, cs) ← hexByte cs
  let cs ← word [','] cs
  let (len, cs) ← asWord (dec cs)
  let (nocache, cs) ← closing cs
  some (.readCommand op len nocache, cs)

/-- `writeCommand(hex,bytes)`; with no bytes it is the row writeCommand_len0. -/
def writeLine (cs : List Char) : Option (Instr × List Char) := do
  let cs ← word "writeCommand(".toList cs
  let (op, cs) ← hexByte cs
  let cs ← word [','] cs
  let (bs, cs) ← bytes cs
  let (nocache, cs) ← closing cs
  some (if bs.isEmpty then .writeCommandLen0 op nocache else .writeCommand op bs nocache, cs)

/-- `eraseCommand(hex,hex)`. -/
def eraseLine (cs : List Char) : Option (Instr × List Char) := do
  let cs ← word "eraseCommand(".toList cs
  let (op, cs) ← hexByte cs
  let cs ← word [','] cs
  let (a, cs) ← asWord (hex cs)
  let (nocache, cs) ← closing cs
  some (.eraseCommand op a nocache, cs)

/-- `readMemory(hex,dec)`. -/
def readMemoryLine (cs : List Char) : Option (Instr × List Char) := do
  let cs ← word "readMemory(".toList cs
  let (a, cs) ← asWord (hex cs)
  let cs ← word [','] cs
  let (len, cs) ← asWord (dec cs)
  let (nocache, cs) ← closing cs
  some (.readMemory a len nocache, cs)

/-- `writeMemory(hex,bytes)`. -/
def writeMemoryLine (cs : List Char) : Option (Instr × List Char) := do
  let cs ← word "writeMemory(".toList cs
  let (a, cs) ← asWord (hex cs)
  let cs ← word [','] cs
  let (bs, cs) ← bytes cs
  let (nocache, cs) ← closing cs
  some (.writeMemory a bs nocache, cs)

/-- `setClockSpeed(dec)`. -/
def clockLine (cs : List Char) : Option (Instr × List Char) := do
  let cs ← word "setClockSpeed(".toList cs
  let (hz, cs) ← dec cs
  let cs ← word [')'] cs
  some (.setclk hz, cs)

/-- Nothing but spaces or a comment. -/
def blankRest (cs : List Char) : Bool :=
  match skipSpaces cs with
  | []              => true
  | '-' :: '-' :: _ => true
  | _               => false

/-- A line: a request, a template or a clock rate (R70). -/
def line (cs : List Char) : Option Instr :=
  match [requestLine, runLine, readLine, writeLine, eraseLine, readMemoryLine, writeMemoryLine, clockLine].findSome?
      (fun f => f cs) with
  | some (i, rest) => if blankRest rest then some i else none
  | none           => none

/-- The lines of a text. -/
def lines : List Char → List (List Char)
  | []         => [[]]
  | '\n' :: cs => [] :: lines cs
  | c :: cs =>
    match lines cs with
    | l :: ls => (c :: l) :: ls
    | []      => [[c]]

/-- A program: its lines, blank lines and comments left out (R70). -/
def program (cs : List Char) : Option (List Instr) :=
  ((lines cs).filter (fun l => !blankRest l)).mapM line

end Sys2Proof.Text
end

