-- ==== Sys2Proof/Tests/Slice0.lean ====
section
/-! SUPPORT. The package's own tests: words written out from the spec's encodings and decoded, ill-formed terms, the vectors of
95_test_vectors.md one step at a time, and for each obligation with hypotheses a state that meets them. Each expected value
comes from the vector or rule named beside it. -/

namespace Sys2Proof.Tests

open Sys2Proof Sys2Proof.Machine

/-! ## Helpers -/

/-- Answers of the outside world that the vectors name: frame 1 and disable 1 are wedged, the second draw fails. -/
def answers : Oracle where
  flash      := [((0, 0), 0x5A), ((0, 1), 0xA5)]
  wedgeFrame := [(0, false), (1, true)]
  wedgeCache := [(0, false), (1, true)]
  intflag    := [(0, 0x00000003)]
  fail       := [(0, false), (1, true)]
  agent      := [(0, .controller), (1, .cache)]

/-- CleanEntry with the cache off. -/
def cacheOff : State := (State.launch { Params.default with oracle := answers }).bringUp

/-- CleanEntry with the cache on. -/
def cacheOn : State := (State.launch { Params.default with oracle := answers, cenAtLaunch := true }).bringUp

/-- The pending frame of V3. -/
def frame3 : FrameRecord where
  seq    := 0
  word   := 0x000810B2
  opcode := 0x6B
  addr   := 0x00000100
  next   := 0x100
  data   := []

/-- The state after V3. -/
def v3 : State :=
  { cacheOff with instrctrl := 0x6B, instraddr := 0x100, instrframe := 0x000810B2, pending := some frame3, nextSeq := 1 }

/-- The state after V10. -/
def v10 : State := { v3 with settled := true }

/-- The state after V13. -/
def v13 : State := { v10 with pending := some { frame3 with next := 0x101, data := [0x5A] } }

/-- The state after V25. -/
def v25 : State := { v13 with inflight := true }

/-- The state after V30. -/
def v30 : State := { v25 with inflight := false, pending := none, instrend := true }

/-- A settled write frame of `writeCommand`'s word at offset 0 (V17). -/
def v17 : State :=
  { cacheOff with
    instrctrl := 0x01, instrframe := 0x2090, settled := true, nextSeq := 1,
    pending := some { seq := 0, word := 0x2090, opcode := 0x01, addr := 0, next := 0, data := [] } }

/-- The executor at a row of its step table with the request of `readCommand(0x05, 1)`. -/
def midRead (pc : Pc) (bracket : Bool) : State :=
  { cacheOff with
    busy := true, pc := pc, req := readRequest 0x05 1 (!bracket), ptr := 0x04000000, bracket := bracket, word := 0x90,
    instrctrl := 0x05, instrframe := 0x90, settled := true, nextSeq := 1,
    pending := some { seq := 0, word := 0x90, opcode := 0x05, addr := 0, next := 0, data := [] } }

/-- The executor inside the bracket, before any frame was programmed. -/
def inBracket (pc : Pc) : State :=
  { cacheOff with busy := true, pc := pc, req := readRequest 0x05 1 false, ptr := 0x04000000, bracket := true }

/-- The executor waiting for the completion of a started frame of number `seq`. -/
def waiting (seq : Nat) : State :=
  { cacheOff with
    busy := true, pc := .s6Poll, req := runRequest 0x06 true, ptr := 0x04000000, word := 0x10, instrctrl := 0x06,
    instrframe := 0x10, settled := true, nextSeq := seq + 1, inflight := true,
    pending := some { seq := seq, word := 0x10, opcode := 0x06, addr := 0, next := 0, data := [] } }

/-- What one instruction leaves, seen through `f`; none where it gives no next state. -/
def after {α : Type} (i : Instr) (s : State) (f : State → α) : Option α :=
  match exec i s with
  | .next t    => some (f t)
  | .fault _   => none
  | .refused _ => none

/-- What one step leaves, seen through `f`. -/
def afterStep {α : Type} (s : State) (f : State → α) : Option α :=
  match step s with
  | .next t    => some (f t)
  | .fault _   => none
  | .refused _ => none

/-- The fault one instruction records, and that it changes nothing else. -/
def raises (i : Instr) (s : State) (code : FaultCode) (info : FaultInfo) : Bool :=
  after i s (fun t => decide (t = s.faultedWith code info)) == some true

/-! ## Decoding: one word for each row, its bits written from the spec's encoding -/

/-- R52: every field of a READ frame at its largest but TFRTYPE, 0x001F_C7F6. -/
theorem test_decode_read : decode Params.default [0xF6, 0xC7, 0x1F, 0x00, 1] = .instr (.frameRead
    { width := 6, instrEn := true, addrEn := true, optEn := true, dataEn := true, optLen := 3, addrLen := .a32,
      crMode := true, ddrEn := true, dummy := 31 }) [] := by decide

/-- DC2: 0x0008_10B2. -/
theorem test_decode_readMemoryFrame : decode Params.default [0xB2, 0x10, 0x08, 0x00, 2] = .instr (.frameReadMemory
    { width := 2, instrEn := true, addrEn := true, optEn := false, dataEn := true, optLen := 0, addrLen := .a24,
      crMode := false, ddrEn := false, dummy := 8 }) [] := by decide

/-- DC1: 0x0000_2090. -/
theorem test_decode_writeFrame : decode Params.default [0x90, 0x20, 0x00, 0x00, 3] = .instr (.frameWrite
    { width := 0, instrEn := true, addrEn := false, optEn := false, dataEn := true, optLen := 0, addrLen := .a24,
      crMode := false, ddrEn := false, dummy := 0 }) [] := by decide

/-- E21: 0x001F_34B6. -/
theorem test_decode_writeMemoryFrame : decode Params.default [0xB6, 0x34, 0x1F, 0x00, 4] = .instr (.frameWriteMemory
    { width := 6, instrEn := true, addrEn := true, optEn := false, dataEn := true, optLen := 0, addrLen := .a32,
      crMode := false, ddrEn := false, dummy := 31 }) [] := by decide

/-- Q1: 0x0000_0410 at 32 address bits. -/
theorem test_decode_runCommand :
    decode Params.default [0x10, 0x04, 0, 0, 5, 0xC7, 1] = .instr (.runCommand 0xC7 true) [] := by decide

/-- Q2: 0x0000_0090. -/
theorem test_decode_readCommand :
    decode Params.default [0x90, 0, 0, 0, 6, 0x9F, 3, 0, 0, 0, 0] = .instr (.readCommand 0x9F 3 false) [] := by decide

/-- Q3: 0x0000_2090; the operand count is one less than the bytes. -/
theorem test_decode_writeCommand :
    decode Params.default [0x90, 0x20, 0, 0, 7, 0x01, 1, 0, 0, 0, 0x00, 0x02, 0]
      = .instr (.writeCommand 0x01 [0x00, 0x02] false) [] := by decide

/-- Q4: 0x0000_0090. -/
theorem test_decode_writeCommandLen0 :
    decode Params.default [0x90, 0, 0, 0, 8, 0x01, 0] = .instr (.writeCommandLen0 0x01 false) [] := by decide

/-- Q5: 0x0000_0030. -/
theorem test_decode_eraseCommand :
    decode Params.default [0x30, 0, 0, 0, 9, 0xD8, 0x00, 0x00, 0x01, 0x00, 0]
      = .instr (.eraseCommand 0xD8 0x00010000 false) [] := by decide

/-- Q6: 0x0008_10B2. -/
theorem test_decode_readMemory :
    decode Params.default [0xB2, 0x10, 0x08, 0, 10, 0xEF, 0xCD, 0xAB, 0x00, 1, 0, 0, 0, 0]
      = .instr (.readMemory 0x00ABCDEF 1 false) [] := by decide

/-- Q7: 0x0000_30B2. -/
theorem test_decode_writeMemory :
    decode Params.default [0xB2, 0x30, 0, 0, 11, 0, 0, 0, 0, 1, 0, 0, 0, 0xA5, 0]
      = .instr (.writeMemory 0 [0xA5] false) [] := by decide

/-- R16, R88: 0x4200_3434. -/
theorem test_decode_wrInstrctrl :
    decode Params.default [0x34, 0x34, 0x00, 0x42, 12, 0x9F, 0, 0, 0] = .instr (.wrInstrctrl 0x9F) [] := by decide

/-- R16, R89: 0x4200_3430. -/
theorem test_decode_wrInstraddr :
    decode Params.default [0x30, 0x34, 0x00, 0x42, 13, 0x78, 0x56, 0x34, 0x12] = .instr (.wrInstraddr 0x12345678) [] := by
  decide

/-- R16, R90: 0x4200_3438. -/
theorem test_decode_wrInstrframe :
    decode Params.default [0x38, 0x34, 0x00, 0x42, 14, 0xB2, 0x10, 0x08, 0x00] = .instr (.wrInstrframe 0x000810B2) [] := by
  decide

/-- R16, R91: 0x4200_3438; without a row number the read. -/
theorem test_decode_rdInstrframe :
    decode Params.default [0x38, 0x34, 0x00, 0x42, 15] = .instr .rdInstrframe []
    ∧ decode Params.default [0x38, 0x34, 0x00, 0x42, 0] = .instr .rdInstrframe [] := by decide

/-- R36, R92: the last window address, 0x04FF_FFFF. -/
theorem test_decode_winRd :
    decode Params.default [0xFF, 0xFF, 0xFF, 0x04, 16] = .instr (.winRd 0x00FFFFFF) [] := by decide

/-- R36, R93: the first window address, 0x0400_0000. -/
theorem test_decode_winWr :
    decode Params.default [0x00, 0x00, 0x00, 0x04, 17, 0xA5, 0xEE] = .instr (.winWr 0 0xA5) [0xEE] := by decide

/-- R16, R94: 0x4200_3400. -/
theorem test_decode_start : decode Params.default [0x00, 0x34, 0x00, 0x42, 18] = .instr .start [] := by decide

/-- R16, R98: 0x4200_341C. -/
theorem test_decode_rdIntflag : decode Params.default [0x1C, 0x34, 0x00, 0x42, 19] = .instr .rdIntflag [] := by decide

/-- R16, R99: 0x4200_341C. -/
theorem test_decode_clrIntflag : decode Params.default [0x1C, 0x34, 0x00, 0x42, 20] = .instr .clrIntflag [] := by decide

/-- R16, R101: 0x4100_6008. -/
theorem test_decode_cacheDisable : decode Params.default [0x08, 0x60, 0x00, 0x41, 21] = .instr .cacheDisable [] := by decide

/-- R16, R104: 0x4100_6008. -/
theorem test_decode_cacheEnable : decode Params.default [0x08, 0x60, 0x00, 0x41, 22] = .instr .cacheEnable [] := by decide

/-- R16, R102: 0x4100_600C. -/
theorem test_decode_rdCmccSr : decode Params.default [0x0C, 0x60, 0x00, 0x41, 23] = .instr .rdCmccSr [] := by decide

/-- R16, R103: 0x4100_6020. -/
theorem test_decode_cacheInvalidate :
    decode Params.default [0x20, 0x60, 0x00, 0x41, 24] = .instr .cacheInvalidate [] := by decide

/-- R67 (4): the operations without operands, selected by name. -/
theorem test_decode_operations :
    decode Params.default [0, 0, 0, 0, 25] = .instr .dsb [] ∧ decode Params.default [0, 0, 0, 0, 26] = .instr .isb []
    ∧ decode Params.default [0, 0, 0, 0, 27] = .instr .complete []
    ∧ decode Params.default [0, 0, 0, 0, 28] = .instr .cacheSettle []
    ∧ decode Params.default [0, 0, 0, 0, 30] = .instr .exec [] := by decide

/-- E4's descriptor: op, no address, data, no dummy, Single (0), Read (0). -/
theorem test_decode_encode :
    decode Params.default [0, 0, 0, 0, 29, 0x01, 0, 1, 0, 0, 0, 1, 2, 0, 0, 0]
      = .instr (.encode (registerCommand 0x01 false true) true 2) [] := by decide

/-- M6's request: a transmit buffer of one byte beside a length of two. -/
theorem test_decode_submit :
    decode Params.default [0, 0, 0, 0, 31, 0x01, 0, 1, 0, 0, 0, 0, 0, 0, 0, 1, 1, 0x00, 2, 0, 0, 0, 0]
      = .instr (.submit ⟨registerCommand 0x01 false true, 0, .tx, [0x00], 2, false⟩) [] := by decide

/-- T14: 24000000 in base 128 is 11, 56, 108, 0; R122: a rate is any natural number. -/
theorem test_decode_setclk :
    decode Params.default [0, 0, 0, 0, 32, 128, 236, 184, 11] = .instr (.setclk 24000000) []
    ∧ decode Params.default (encode Params.default (.setclk (2 ^ 64))) = .instr (.setclk (2 ^ 64)) [] := by decide

/-- What the decoder turns away, each by name: too few bytes, a row number no row has, another row's word, a Bool that is
neither 0 nor 1, and the reserved words DC3, DC4, DC5 and DC6 as frames (R61). -/
theorem test_decode_rejects :
    decode Params.default [0x10, 0, 0] = .reject .truncated
    ∧ decode Params.default [0x10, 0, 0, 0, 40] = .reject .unknownRow
    ∧ decode Params.default [0x10, 0, 0, 0, 2] = .reject .wordMismatch
    ∧ decode Params.default [0x10, 0, 0, 0, 5, 0x06, 2] = .reject .badField
    ∧ decode Params.default [0x08, 0, 0, 0, 1] = .reject .wordMismatch
    ∧ decode Params.default [0x17, 0, 0, 0, 1] = .reject .wordMismatch
    ∧ decode Params.default [0x10, 0, 0x20, 0, 1] = .reject .wordMismatch
    ∧ decode Params.default [0x10, 0x08, 0, 0, 1] = .reject .wordMismatch
    ∧ decode Params.default [0, 0, 0, 0, 29, 0x01, 0, 1, 32, 0, 0, 1, 2, 0, 0, 0] = .reject .illFormed := by decide

/-- R67: a word of the table, its operands zero. -/
theorem test_decodeTableWord :
    decodeTableWord 32 0x00001000 = some (.frameReadMemory (frameFields 0x00001000))
    ∧ decodeTableWord 32 0x00000010 = some (.runCommand 0 false)
    ∧ decodeTableWord 32 0x04000000 = some (.winRd 0)
    ∧ decodeTableWord 32 0x41006008 = some .cacheDisable := by decide

/-- The first step after reset runs the placed word. -/
theorem test_withFetchWord_runs :
    afterStep (State.reset.withFetchWord 32 0x42003434) (fun t => (t.history, t.script))
      = some ([.regWrite .instrctrl 0], []) := by decide

/-- R7 and R43: any word-aligned base, one whose block wraps too; a window over the last byte of INSTRFRAME is no platform, nor is CMCC_SR at
the address of INTFLAG. -/
theorem test_params :
    { Params.default with qspiBase := 0xFFFFFFF0 }.wf = true
    ∧ { Params.default with windowBase := 0x4200343B, windowSize := 1 }.wf = false
    ∧ { Params.default with windowBase := 0x4200343C, windowSize := 1 }.wf = true
    ∧ { Params.default with cmccBase := 0x42003410 }.wf = false := by decide

/-! ## Ill-formed terms -/

/-- R61: WIDTH 7. -/
theorem test_illFormed_width :
    (Instr.frameRead (frameFields 0x17)).wellFormed Params.default = false
    ∧ (Instr.frameReadMemory (frameFields 0x17)).wellFormed Params.default = false
    ∧ (Instr.frameWrite (frameFields 0x17)).wellFormed Params.default = false
    ∧ (Instr.frameWriteMemory (frameFields 0x17)).wellFormed Params.default = false := by decide

/-- R127: no bytes is writeCommand_len0. R36: the first offset past the window. R72: 32 dummy cycles. -/
theorem test_illFormed_operands :
    (Instr.writeCommand 0x01 [] false).wellFormed Params.default = false
    ∧ (Instr.winRd 0x01000000).wellFormed Params.default = false
    ∧ (Instr.winWr 0x01000000 0).wellFormed Params.default = false
    ∧ (Instr.encode { registerCommand 0x05 false true with dummyCycles := 32 } false 0).wellFormed Params.default = false := by
  decide

/-- M2's request with more dummy cycles than 32 bits hold is an instruction: `dummyCycles` is a natural number (R64). -/
theorem test_decode_wide_dummy :
    let r : Request := ⟨{ registerCommand 0x05 false true with dummyCycles := 2 ^ 40 }, 0, .rx, [0], 1, false⟩
    decode Params.default (encode Params.default (.submit r) ++ [7]) = .instr (.submit r) [7] := by decide

/-- R65: more bytes than a 32-bit length counts. -/
theorem test_illFormed_count (bytes : List Byte) (h : bytes.length = 2 ^ 32) :
    (Instr.writeMemory 0 bytes false).wellFormed Params.default = false := by simp [Instr.wellFormed, fits32, h]

/-! ## The encoder and the decoder of frame words (E and DC vectors) -/

/-- E1, E2, E8, E10: the address length. -/
theorem test_encode_addrLen :
    encodeFrame .a24 (registerCommand 0x06 false false) false 0 = 0x00000010
    ∧ encodeFrame .a32 (registerCommand 0x06 false false) false 0 = 0x00000410
    ∧ encodeFrame .a32 (registerCommand 0xD8 true false) false 0 = 0x00000430
    ∧ encodeFrame .a32 ⟨0x6B, true, true, 8, .quad, .readMemory⟩ false 4 = 0x000814B2 := by decide

/-- E4, E5, E6, E12, E13, E22: the override and its corners. -/
theorem test_encode_override :
    encodeFrame .a24 (registerCommand 0x01 false true) true 2 = 0x00002090
    ∧ encodeFrame .a24 (registerCommand 0x01 false true) true 0 = 0x00000090
    ∧ encodeFrame .a24 (registerCommand 0x01 false true) false 5 = 0x00000090
    ∧ encodeFrame .a24 ⟨0x02, true, true, 0, .quad, .readMemory⟩ true 2 = 0x000030B2
    ∧ encodeFrame .a24 ⟨0x01, false, true, 0, .single, .write⟩ true 1 = 0x00002090
    ∧ encodeFrame .a24 ⟨0x01, false, true, 0, .single, .write⟩ false 0 = 0x00002090 := by decide

/-- E15 to E21: dummy counts and widths. -/
theorem test_encode_widths :
    encodeFrame .a24 ⟨0x6B, true, true, 31, .quad, .readMemory⟩ false 1 = 0x001F10B2
    ∧ encodeFrame .a24 ⟨0x3B, false, true, 0, .dual, .read⟩ false 1 = 0x00000091
    ∧ encodeFrame .a24 ⟨0xBB, true, true, 4, .dualIO, .readMemory⟩ false 1 = 0x000410B3
    ∧ encodeFrame .a24 ⟨0xEB, true, true, 6, .quadIO, .readMemory⟩ false 1 = 0x000610B4
    ∧ encodeFrame .a24 ⟨0x06, false, false, 0, .dualCmd, .read⟩ false 0 = 0x00000015
    ∧ encodeFrame .a24 ⟨0x06, false, false, 0, .quadCmd, .read⟩ false 0 = 0x00000016
    ∧ encodeFrame .a32 ⟨0x02, true, true, 31, .quadCmd, .writeMemory⟩ true 1 = 0x001F34B6 := by decide

/-- DC3 to DC10: verdicts and the image of ENCODE. -/
theorem test_decodeFrame_verdicts :
    (decodeFrame 0x00000008).reserved = true ∧ (decodeFrame 0x00000017).reserved = true
    ∧ (decodeFrame 0x00200010).reserved = true ∧ (decodeFrame 0x00000810).reserved = true
    ∧ (decodeFrame 0x00000050).reserved = false ∧ inImage .a24 0x00000050 = false
    ∧ (decodeFrame 0x00004010).reserved = false ∧ inImage .a24 0x00004010 = false
    ∧ (decodeFrame 0x00000000).reserved = false ∧ inImage .a24 0x00000000 = false
    ∧ inImage .a24 0x00000410 = false ∧ inImage .a32 0x00000410 = true
    ∧ inImage .a24 0x00002090 = true ∧ inImage .a24 0x000810B2 = true := by decide

/-- The two tables a frame's fields select from (R53, R57). -/
theorem test_field_tables :
    widthLines 4 = some (1, 4, 4) ∧ widthLines 7 = none ∧ optCodeBits 3 = 8 ∧ optCodeBits 0 = 1 := by decide

/-! ## The nine checks (M and W vectors) -/

/-- M2, M4, M5, M6. -/
theorem test_checks_wf2_wf4_wf5 :
    (Request.firstFailing Params.default ⟨⟨0x05, false, true, 32, .single, .read⟩, 0, .rx, [0], 1, false⟩) = some .wf2
    ∧ (Request.firstFailing Params.default ⟨registerCommand 0x06 false false, 0, .tx, [0x00], 1, false⟩) = some .wf4
    ∧ (Request.firstFailing Params.default ⟨registerCommand 0x05 false true, 0, .noBuffer, [], 1, false⟩) = some .wf5
    ∧ (Request.firstFailing Params.default ⟨registerCommand 0x01 false true, 0, .tx, [0x00], 2, false⟩) = some .wf5 := by decide

/-- M7, M8, M9, W2. -/
theorem test_checks_wf6_wf7 :
    (eraseRequest 0x20 0x1000000 false).firstFailing Params.default = some .wf6
    ∧ (eraseRequest 0x20 0x1000001 false).firstFailing { Params.default with addrLen := .a32 } = some .wf7
    ∧ (readMemoryRequest Params.default 0xFFFFFF 2 false).firstFailing Params.default = some .wf7
    ∧ (eraseRequest 0xD8 0x1000000 false).firstFailing { Params.default with addrLen := .a32 } = none := by decide

/-- M11, M12, M13. -/
theorem test_checks_wf8_wf9 :
    (Request.firstFailing Params.default ⟨⟨0x02, true, true, 0, .quad, .writeMemory⟩, 0x100, .rx, [0, 0, 0, 0], 4, false⟩)
      = some .wf8
    ∧ (Request.firstFailing Params.default ⟨⟨0x6B, false, true, 8, .quad, .readMemory⟩, 0, .rx, [0], 1, false⟩) = some .wf9
    ∧ (Request.firstFailing Params.default ⟨⟨0x05, false, false, 40, .single, .read⟩, 0, .rx, [0], 1, false⟩) = some .wf2 := by
  decide

/-- W1, W3, W4, W5, W6. -/
theorem test_checks_pass :
    (readMemoryRequest Params.default 0xFFFFFF 1 false).wellFormed Params.default = true
    ∧ (writeRequest 0x01 [0x00, 0x02] false).wellFormed Params.default = true
    ∧ (readRequest 0x05 0 false).wellFormed Params.default = true
    ∧ (writeRequest 0x01 [] false).wellFormed Params.default = true
    ∧ (runRequest 0xFF false).wellFormed Params.default = true ∧ (runRequest 0x00 false).wellFormed Params.default = true := by
  decide

/-! ## Primitives (V vectors) -/

/-- V1, V6. -/
theorem test_wrInstrctrl :
    after (.wrInstrctrl 0x9F) cacheOff (fun t => (t.instrctrl, t.history))
      = some (0x0000009F, [.regWrite .instrctrl 0x0000009F])
    ∧ raises (.wrInstrctrl 0x05) v3 .frameOverrun (.reg .instrctrl) := by decide

/-- V2, V28. -/
theorem test_wrInstraddr :
    after (.wrInstraddr 0xFFFFFFFF) cacheOff (·.instraddr) = some 0xFFFFFFFF
    ∧ raises (.wrInstraddr 0) v25 .frameOverrun (.reg .instraddr) := by decide

/-- V3, V4, V5. -/
theorem test_wrInstrframe :
    after (.wrInstrframe 0x000810B2) { cacheOff with instrctrl := 0x6B, instraddr := 0x100, settled := true }
        (fun t => (t.pending, t.nextSeq, t.settled)) = some (some frame3, 1, false)
    ∧ after (.wrInstrframe 0x00000090) { cacheOff with instrctrl := 0x05, instraddr := 0x1234, nextSeq := 3 } (·.pending)
      = some (some { seq := 3, word := 0x90, opcode := 0x05, addr := 0x1234, next := 0, data := [] })
    ∧ after (.wrInstrframe 0x00000030) { cacheOff with instraddr := 0x12345678 } (fun t => t.pending.map (·.next))
      = some (some 0x345678) := by decide

/-- V7, V8, V9. -/
theorem test_wrInstrframe_faults :
    raises (.wrInstrframe 0x00000008) v3 .frameOverrun (.reg .instrframe)
    ∧ raises (.wrInstrframe 0x00000017) cacheOff .reservedFieldValue (.word 0x00000017)
    ∧ raises (.wrInstrframe 0x80000010) cacheOff .reservedFieldValue (.word 0x80000010) := by decide

/-- V10, V11. -/
theorem test_rdInstrframe :
    after .rdInstrframe v3 (fun t => (t.settled, t.history)) = some (true, [.regRead .instrframe 0x000810B2])
    ∧ after .rdInstrframe cacheOff (·.settled) = some true := by decide

/-- V13, V21. -/
theorem test_winRd :
    after (.winRd 0x100) v10 (fun t => (t.pending, t.history))
      = some (some { frame3 with next := 0x101, data := [0x5A] }, [.winRead 0x100 0x5A])
    ∧ after (.winRd 0x100) { v10 with csts := true, cfg := { v10.cfg with cachePresent := false } } (·.history)
      = some [.winRead 0x100 0x5A] := by decide

/-- V12, V14, V15, V17, V18, V20, V27. -/
theorem test_winRd_faults :
    raises (.winRd 0x100) v3 .unsettledFrame (.offset 0x100)
    ∧ raises (.winRd 0x100) v13 .windowNonSequential (.offset 0x100)
    ∧ raises (.winRd 0x0) v10 .windowNonSequential (.offset 0x0)
    ∧ raises (.winRd 0x0) v17 .windowDirection (.offset 0x0)
    ∧ raises (.winRd 0x0) { v10 with pending := some { frame3 with word := 0x10 } } .noFrame (.offset 0x0)
    ∧ raises (.winRd 0x100) { v10 with csts := true } .cacheActiveDataPhase (.offset 0x100)
    ∧ raises (.winRd 0x101) v25 .noFrame (.offset 0x101) := by decide

/-- R93 on a settled write frame; V16, V19. -/
theorem test_winWr :
    after (.winWr 0 0xA5) v17 (fun t => (t.pending.map (·.data), t.history)) = some (some [0xA5], [.winWrite 0 0xA5])
    ∧ raises (.winWr 0x100 0x00) v10 .windowDirection (.offset 0x100)
    ∧ raises (.winWr 0x0 0x00) cacheOff .noFrame (.offset 0x0) := by decide

/-- The frame event of V25. -/
def frameEvent25 : FrameEvent :=
  { seq := 0, opcode := 0x6B, width := 2, instrEn := true, addrEn := true, optEn := false, dataEn := true, crMode := false,
    ddrEn := false, addrLen := .a24, addr := 0x00000100, optLen := 0, optCode := 0, tfrType := 1, dummy := 8, dir := .dirIn,
    data := [0x5A] }

/-- V25. -/
theorem test_start :
    after .start v13 (fun t => (t.inflight, t.enable, t.history))
      = some (true, true, [.frame frameEvent25, .regWrite .ctrla 0x01000002]) := by decide

/-- V22, V23, V24, V26. -/
theorem test_start_faults :
    raises .start v3 .unsettledFrame (.reg .ctrla) ∧ raises .start cacheOff .noFrame (.reg .ctrla)
    ∧ raises .start { v10 with instrend := true } .staleCompletionFlag (.reg .ctrla)
    ∧ raises .start v25 .noFrame (.reg .ctrla) := by decide

/-- V5: the frame event has the low 24 bits of the address. -/
theorem test_start_addr24 :
    after .start { cacheOff with
      settled := true
      pending := some { seq := 0, word := 0x30, opcode := 0xD8, addr := 0x12345678, next := 0x345678, data := [] } }
      (fun t => (framesOf t.history).map (fun e => (e.addr, e.dir))) = some [(0x00345678, .noData)] := by decide

/-- V25 as the READMEMORY frame it performs; READ performs no frame of another word (Log 14). -/
theorem test_frames_read :
    after (.frameReadMemory (frameFields 0x000810B2)) v13 (fun t => framesOf t.history) = some [frameEvent25]
    ∧ raises (.frameRead (frameFields 0x000810B2)) v13 .noFrame (.reg .ctrla)
    ∧ after (.frameRead (frameFields 0x90)) { midRead .s6Start true with pc := .s6Start }
        (fun t => (framesOf t.history).map (fun e => (e.tfrType, e.dir))) = some [(0, .dirIn)] := by decide

/-- R94, R55: WRITE and WRITEMEMORY drive data out. -/
theorem test_frames_write :
    after (.frameWrite (frameFields 0x2090)) v17 (fun t => (framesOf t.history).map (fun e => (e.tfrType, e.dir)))
      = some [(2, .dirOut)]
    ∧ after (.frameWriteMemory (frameFields 0x30B2)) { v10 with pending := some { frame3 with word := 0x30B2 } }
        (fun t => (framesOf t.history).map (fun e => (e.tfrType, e.dir))) = some [(3, .dirOut)] := by decide

/-- V25: opcode on 1 line, 24 address bits on 1 line, 8 dummy cycles, data on 4 lines (R53, R56, R58); every phase of a frame
with 32 address bits and an option code of 4 bits; a reserved width. -/
theorem test_frame_phases :
    frameEvent25.phases = some [.instruction 1 0x6B, .address 1 24 0x100, .dummy 8, .data 4 .dirIn [0x5A]]
    ∧ { frameEvent25 with width := 3, optEn := true, optLen := 2, optCode := 0xA0, addrLen := .a32 }.phases
      = some [.instruction 1 0x6B, .address 2 32 0x100, .option 2 4 0xA0, .dummy 8, .data 2 .dirIn [0x5A]]
    ∧ { frameEvent25 with width := 7 }.phases = none := by decide

/-- V29. -/
theorem test_barriers :
    after .dsb v25 (·.history) = some [.barrier .dsb] ∧ after .isb v25 (·.history) = some [.barrier .isb] := by decide

/-- V30, V31. -/
theorem test_complete :
    after .complete v25 (fun t => (t.instrend, t.inflight, t.pending, t.history)) = some (true, false, none, [.complete 0])
    ∧ after .complete (waiting 1) (fun t => decide (t = waiting 1)) = some true := by decide

/-- V32, V33. -/
theorem test_rdIntflag :
    after .rdIntflag cacheOff (fun t => decide (t = cacheOff)) = some true
    ∧ after .rdIntflag v30 (·.history) = some [.regRead .intflag 0x00000403] := by decide

/-- V34, V35. -/
theorem test_clrIntflag :
    after .clrIntflag v30 (fun t => (t.instrend, t.history)) = some (false, [.regWrite .intflag 0x00000400])
    ∧ after .clrIntflag cacheOff (·.instrend) = some false := by decide

/-- V36. -/
theorem test_cacheDisable :
    after .cacheDisable cacheOn (fun t => (t.cen, t.csts, t.history)) = some (false, true, [.regWrite .cmccCtrl 0]) := by
  decide

/-- V43. -/
theorem test_cacheEnable :
    after .cacheEnable cacheOff (fun t => (t.cen, t.csts, t.history)) = some (true, false, [.regWrite .cmccCtrl 1])
    ∧ after .cacheSettle { cacheOff with cen := true } (fun t => (t.csts, t.history)) = some (true, [.cacheStatus true]) := by
  decide

/-- The state after V36. -/
def v36 : State := { cacheOn with cen := false, history := [.regWrite .cmccCtrl 0] }

/-- V38, V39. -/
theorem test_cacheSettle :
    after .cacheSettle v36 (fun t => (t.csts, t.history)) = some (false, [.regWrite .cmccCtrl 0, .cacheStatus false])
    ∧ after .cacheSettle { v36 with history := [.regWrite .cmccCtrl 0, .regWrite .cmccCtrl 0] } (·.csts) = some true := by
  decide

/-- V37, V40. -/
theorem test_rdCmccSr :
    after .rdCmccSr v36 (fun t => decide (t = v36)) = some true
    ∧ after .rdCmccSr cacheOff (·.history) = some [.regRead .cmccSr 0] := by decide

/-- V41, V42. -/
theorem test_cacheInvalidate :
    raises .cacheInvalidate v36 .cacheMaintWhileActive (.reg .cmccMaint0)
    ∧ after .cacheInvalidate { cacheOff with lines := [1, 7] } (fun t => (t.lines, t.history)) = some ([], [.cacheInvalidate]) := by
  decide

/-! ## Executor, caller, foreign agents (M, T, Z vectors) -/

/-- M14, M2: NOT_ENABLED, MALFORMED_REQUEST. -/
theorem test_exec_check :
    raises .exec { cacheOff with enable := false, busy := true, pc := .check, req := runRequest 0x06 false } .notEnabled
      (.request (runRequest 0x06 false))
    ∧ raises .exec { cacheOff with busy := true, pc := .check, req := eraseRequest 0x20 0x1000000 false } .malformedRequest
      (.check .wf6) := by decide

/-- T17: the window pointer. T5: the opted-out copy with the cache active. -/
theorem test_exec_rows :
    after .exec { cacheOff with busy := true, pc := .s1, req := readMemoryRequest Params.default 0x100 4 false }
      (fun t => (t.ptr, t.bracket, t.pc)) = some (0x04000100, true, .s2Dis)
    ∧ raises .exec { midRead (.s5 0) false with csts := true } .cacheActiveDataPhase (.offset 0) := by decide

/-- T12, T13: a second call while busy. -/
theorem test_reentrant :
    raises (.runCommand 0x06 false) (midRead (.s5 0) true) .reentrantCall (.request (runRequest 0x06 false))
    ∧ raises (.setclk 8000000) (midRead .s4 true) .reentrantCall (.rate 8000000) := by decide

/-- R113, R121, R140: at S3_OP the request's opcode is the executor's write, another is refused. -/
theorem test_access_operand :
    after (.wrInstrctrl 0x05) (inBracket .s3Op) (fun t => (t.instrctrl, t.pc, t.refused)) = some (0x05, .s3Addr, false)
    ∧ after (.wrInstrctrl 0x55) (inBracket .s3Op) (fun t => decide (t = { inBracket .s3Op with refused := true })) = some true
    ∧ after (.winRd 1) (midRead (.s5 0) true) (·.refused) = some true
    ∧ after (.winRd 0) (midRead (.s5 0) true) (fun t => (t.refused, t.rx)) = some (false, [0x5A]) := by decide

/-- T14, T15. -/
theorem test_setclk :
    after (.setclk 24000000) cacheOff (fun t => (t.clockHz, t.history)) = some (24000000, [])
    ∧ after (.setclk 0) cacheOff (·.clockHz) = some 0 := by decide

/-- R108, R125: SUBMIT and runCommand latch the request. -/
theorem test_submit_run :
    after (.submit (runRequest 0x06 true)) cacheOff (fun t => (t.busy, t.pc, t.history))
      = some (true, .check, [.request (runRequest 0x06 true)])
    ∧ after (.runCommand 0xC7 false) cacheOff (fun t => (t.req.instruction.opcode, t.req.role, t.req.length))
      = some (0xC7, .noBuffer, 0) := by decide

/-- Q2, Q3, Q4: the register commands with data. -/
theorem test_templates_data :
    after (.readCommand 0x35 1 false) cacheOff (fun t => (t.req.role, t.req.buffer.length, t.req.length)) = some (.rx, 1, 1)
    ∧ after (.writeCommand 0x01 [0x00, 0x02] false) cacheOff (fun t => (t.req.role, t.req.buffer, t.req.length))
      = some (.tx, [0x00, 0x02], 2)
    ∧ after (.writeCommandLen0 0x01 false) cacheOff (fun t => (t.req.role, t.req.buffer, t.req.length)) = some (.tx, [], 0) := by
  decide

/-- Q5, Q6, Q7: the templates with an address. -/
theorem test_templates_address :
    after (.eraseCommand 0xD8 0x010000 false) cacheOff (fun t => (t.req.address, t.req.instruction.hasData))
      = some (0x010000, false)
    ∧ after (.readMemory 0xABCDEF 1 false) cacheOff (fun t => (t.req.address, t.req.instruction.opcode, t.req.encoded t.cfg))
      = some (0xABCDEF, 0x6B, 0x000810B2)
    ∧ after (.writeMemory 0 [0xA5] false) cacheOff (fun t => (t.req.buffer, t.req.instruction.opcode, t.req.encoded t.cfg))
      = some ([0xA5], 0x32, 0x000030B2) := by decide

/-- E4 as an operation: the word at the output port (R72). -/
theorem test_encode_operation :
    after (.encode (registerCommand 0x01 false true) true 2) cacheOff (·.encOut) = some 0x00002090 := by decide

/-- T7: the draw FAIL; a received byte is not returned. T4: OK with the bytes. -/
theorem test_exec_return :
    after .exec { midRead .ret true with rx := [0x00], draws := 1 } (fun t => (t.result, t.busy, t.pc))
      = some (some .fail, false, .idle)
    ∧ after .exec { midRead .ret true with rx := [0x00] } (·.result) = some (some (.ok [0x00])) := by decide

/-- R140: a foreign word read at INSTRFRAME sets the refused mark; R43: the word after it does not. -/
theorem test_foreign :
    afterStep { cacheOff with script := [0x38, 0x34, 0x00, 0x42, 255, 0, 4, 0, 0, 0, 0] } (fun t => (t.refused, t.script))
      = some (true, [])
    ∧ afterStep { cacheOff with script := [0x3C, 0x34, 0x00, 0x42, 255, 0, 4, 0, 0, 0, 0] } (·.refused) = some false := by
  decide

/-- Z1, Z3. -/
theorem test_cleanEntry :
    State.reset.cleanEntry = false ∧ cacheOn.cleanEntry = true ∧ cacheOn.cen = true ∧ cacheOn.csts = true := by decide

/-- Z5, Z6: no end of a run with a frame in flight or with a cache step pending. -/
theorem test_runEnded :
    (waiting 1).runEnded = false ∧ { cacheOff with cen := true }.runEnded = false ∧ cacheOff.runEnded = true := by decide

/-! ## The textual syntax (R70) -/

/-- The first request of P6. -/
theorem test_text_request :
    Text.line ("EXEC ".toList ++ Text.openBrace ++ "op=0x01,addr=0,data=1,dummy=0,width=Single,dir=Read".toList
        ++ Text.closeBrace ++ " tx=[0x00,0x02] nocache".toList)
      = some (.submit ⟨registerCommand 0x01 false true, 0, .tx, [0x00, 0x02], 2, true⟩) := by decide

/-- The longer width and direction names, an address and a receive length. -/
theorem test_text_names :
    Text.line ("EXEC".toList ++ Text.openBrace ++ "op=0xEB,addr=1,data=1,dummy=6,width=QuadIO,dir=ReadMemory".toList
        ++ Text.closeBrace ++ " addr=0x100 rx=2 -- a comment".toList)
      = some (.submit ⟨⟨0xEB, true, true, 6, .quadIO, .readMemory⟩, 0x100, .rx, [0, 0], 2, false⟩) := by decide

/-- A program: templates, a blank line, the clock rate (lines of P1, P3 and P6). -/
theorem test_text_program :
    Text.program "readCommand(0x35, 1) -- SR2\nrunCommand(0x06)\n\nwriteCommand(0x01, []) nocache\nsetClockSpeed(8000000)".toList
      = some [.readCommand 0x35 1 false, .runCommand 0x06 false, .writeCommandLen0 0x01 true, .setclk 8000000] := by decide

/-- Templates with addresses; a value too wide for a byte is no line. -/
theorem test_text_templates :
    Text.line "eraseCommand(0xD8,0x01_0000)".toList = some (.eraseCommand 0xD8 0x00010000 false)
    ∧ Text.line "readMemory(0xABCDEF,1) nocache".toList = some (.readMemory 0x00ABCDEF 1 true)
    ∧ Text.line "writeMemory(0x0,[0xA5])".toList = some (.writeMemory 0 [0xA5] false)
    ∧ Text.line "writeCommand(0x31,[0x02])".toList = some (.writeCommand 0x31 [0x02] false)
    ∧ Text.line "runCommand(0x100)".toList = none := by decide

/-! ## Witnesses: states that meet the hypotheses of each obligation, clause by clause -/

theorem wit_StepRunsDecodedInstruction :
    let s := { cacheOff with script := [0, 0, 0, 0, 25, 9] }
    (s.faults = [] ∧ s.script ≠ [] ∧ decode s.cfg s.script = .instr .dsb [9])
    ∧ cacheOff.faults = [] ∧ cacheOff.script = [] ∧ afterStep cacheOff (·.draws) = some 1 := by decide

/-- The last byte of INSTRFRAME, a word that reaches the window's last byte, and the first addresses past both. -/
theorem wit_ForeignAccessSetsRefused :
    let a : Access := ⟨true, 1, 0x4200343B, 0⟩
    let b : Access := ⟨false, 4, 0x03FFFFFD, 0⟩
    let c : Access := ⟨false, 4, 0x05000000, 0⟩
    decode cacheOff.cfg [0x3B, 0x34, 0x00, 0x42, 255, 1, 1, 0, 0, 0, 0] = .foreign a []
    ∧ (a.addr + BitVec.ofNat 32 0) &&& 0xFFFFFFFC = cacheOff.cfg.regAddr .instrframe
    ∧ decode cacheOff.cfg [0xFD, 0xFF, 0xFF, 0x03, 255, 0, 4, 0, 0, 0, 0] = .foreign b []
    ∧ cacheOff.cfg.inWindow (b.addr + BitVec.ofNat 32 3) = true
    ∧ decode cacheOff.cfg [0x00, 0x00, 0x00, 0x05, 255, 0, 4, 0, 0, 0, 0] = .foreign c []
    ∧ (∀ k < c.bytes, cacheOff.cfg.inWindow (c.addr + BitVec.ofNat 32 k) = false
        ∧ ∀ r ∈ Reg.all, (c.addr + BitVec.ofNat 32 k) &&& 0xFFFFFFFC ≠ cacheOff.cfg.regAddr r) := by decide

theorem wit_NoStepAfterFault :
    (v3.faultedWith .frameOverrun (.reg .instrctrl)).faults = ⟨.frameOverrun, .reg .instrctrl, .idle⟩ :: [] := by decide

theorem wit_DecodeAfterEncode :
    Params.default.wf = true ∧ (Instr.winRd 0x00FFFFFF).wellFormed Params.default = true
    ∧ (Instr.writeCommand 0x01 [0x00] false).wellFormed Params.default = true
    ∧ (Instr.setclk (2 ^ 64 - 1)).wellFormed Params.default = true
    ∧ (Instr.frameWriteMemory (frameFields 0x001F34B6)).wellFormed Params.default = true
    ∧ (Instr.encode ⟨0x6B, true, true, 31, .quad, .readMemory⟩ false 1).wellFormed Params.default = true := by decide

theorem wit_DecodedIsWellFormed : decode Params.default [0xB6, 0x34, 0x1F, 0x00, 4, 7]
    = .instr (.frameWriteMemory (frameFields 0x001F34B6)) [7] := by decide

/-- Every bit that is not reserved. -/
theorem wit_FieldsGiveFrameWordBack :
    (0x001FF7F7 : Word).getLsbD 3 = false ∧ (0x001FF7F7 : Word).getLsbD 11 = false
    ∧ (0x001FF7F7 : Word).extractLsb' 21 11 = 0 := by decide

/-- For EncodeOfDescriptor, EncodeFields and EncodeInjective: 31 dummy cycles, and two opcodes with one word. -/
theorem wit_EncodeOfDescriptor_EncodeFields_EncodeInjective :
    let d : Descriptor := ⟨0x6B, true, true, 31, .quad, .readMemory⟩
    let e : Descriptor := ⟨0x0B, true, true, 31, .quad, .readMemory⟩
    d.dummyCycles ≤ 31 ∧ e.dummyCycles ≤ 31 ∧ d ≠ e ∧ encodeFrame .a24 d false 1 = encodeFrame .a24 e false 2 := by decide

theorem wit_DataDirectionOverride :
    let r : Request := ⟨registerCommand 0x01 false true, 0, .tx, [0x00, 0x02], 2, false⟩
    let q : Request := ⟨⟨0x01, false, true, 0, .single, .write⟩, 0, .rx, [0], 1, false⟩
    (r.length ≠ 0 ∧ r.role = .tx) ∧ q.length ≠ 0 ∧ q.role ≠ .tx ∧ q.instruction.direction = .write := by decide

theorem wit_EncodeImage :
    reservedWord 0x00000050 = false ∧ cacheOff.faults = []
    ∧ cacheOff.mayWrite .s3Frame 0x00000050 (cacheOff.req.encoded cacheOff.cfg) ∧ cacheOff.pending = none
    ∧ cacheOff.inflight = false := by unfold State.mayWrite; decide

/-- The dummy count at its bound, with no recorded fault. -/
theorem wit_EncodeTouchesNoState :
    cacheOff.faults = [] ∧ { registerCommand 0x05 false true with dummyCycles := 31 }.dummyCycles ≤ 31 := by decide

theorem wit_Barriers : (midRead .s6Dsb true).faults = [] ∧ (midRead .s6Isb true).faults = [] := by decide

theorem wit_TemplateFrameWords : ([] : List Byte).length < 2 ^ 32 ∧ ([0x02] : List Byte).length < 2 ^ 32 := by decide

/-- At its row with the request's opcode, with no request in progress, and with a frame pending. -/
theorem wit_OpcodeWrite :
    let s := inBracket .s3Op
    (s.faults = [] ∧ s.busy = true ∧ s.mayWrite .s3Op 0x05 s.req.instruction.opcode ∧ s.inflight = false ∧ s.pending = none)
    ∧ (cacheOff.faults = [] ∧ cacheOff.mayWrite .s3Op 0x9F cacheOff.req.instruction.opcode ∧ cacheOff.inflight = false
      ∧ cacheOff.pending = none)
    ∧ v3.faults = [] ∧ v3.mayWrite .s3Op 0x05 v3.req.instruction.opcode ∧ v3.pending ≠ none := by
  unfold State.mayWrite; decide

theorem wit_AddressWrite :
    let s := inBracket .s3Addr
    (s.faults = [] ∧ s.busy = true ∧ s.mayWrite .s3Addr 0 s.req.off ∧ s.inflight = false ∧ s.pending = none)
    ∧ v25.faults = [] ∧ v25.mayWrite .s3Addr 0xFFFFFFFF v25.req.off ∧ v25.inflight = true := by unfold State.mayWrite; decide

/-- Each reserved encoding, the word with every other bit set, and an overrun. -/
theorem wit_FrameWrite :
    let s := inBracket .s3Frame
    (s.faults = [] ∧ s.busy = true ∧ s.mayWrite .s3Frame 0x90 (s.req.encoded s.cfg) ∧ s.inflight = false ∧ s.pending = none)
    ∧ (0x00000008 : Word).getLsbD 3 = true ∧ (0x00000800 : Word).getLsbD 11 = true
    ∧ (0x00200000 : Word).extractLsb' 21 11 ≠ 0 ∧ (0x80000000 : Word).extractLsb' 21 11 ≠ 0
    ∧ (0x00000007 : Word).extractLsb' 0 3 = 7
    ∧ ¬((0x001FF7F6 : Word).getLsbD 3 = true ∨ (0x001FF7F6 : Word).getLsbD 11 = true
        ∨ (0x001FF7F6 : Word).extractLsb' 21 11 ≠ 0 ∨ (0x001FF7F6 : Word).extractLsb' 0 3 = 7)
    ∧ v3.faults = [] ∧ v3.mayWrite .s3Frame 0x90 (v3.req.encoded v3.cfg) ∧ v3.pending ≠ none := by unfold State.mayWrite; decide

theorem wit_SettleReadBack :
    v3.faults = [] ∧ v3.mayAccess .s4 ∧ (midRead .s4 true).faults = [] ∧ (midRead .s4 true).mayAccess .s4
    ∧ (midRead .s4 true).pc = .s4 := by unfold State.mayAccess; decide

/-- One state for each outcome, in the order of the checks; the last at a copy row. -/
theorem wit_WindowRead :
    (cacheOff.faults = [] ∧ cacheOff.mayCopyIn 0 ∧ cacheOff.pending = none)
    ∧ (v25.faults = [] ∧ v25.mayCopyIn 0x101 ∧ v25.pending = some { frame3 with next := 0x101, data := [0x5A] } ∧ v25.inflight = true)
    ∧ (v3.faults = [] ∧ v3.mayCopyIn 0x100 ∧ v3.pending = some frame3 ∧ v3.inflight = false ∧ frame3.word.getLsbD 7 = true
      ∧ v3.settled = false)
    ∧ (v17.mayCopyIn 0 ∧ v17.settled = true ∧ v17.pending.map (·.word.getLsbD 13) = some true)
    ∧ (v10.faults = [] ∧ v10.mayCopyIn 0x100 ∧ v10.pending = some frame3 ∧ v10.settled = true ∧ frame3.word.getLsbD 13 = false
      ∧ (0 : Word).toNat ≠ frame3.next ∧ (0x100 : Word).toNat = frame3.next ∧ v10.csts = false)
    ∧ (v10.cfg.cachePresent = true ∧ { v10 with csts := true }.csts = true ∧ { v10 with csts := true }.mayCopyIn 0x100)
    ∧ (midRead (.s5 0) true).busy = true ∧ (midRead (.s5 0) true).mayCopyIn 0 ∧ (midRead (.s5 0) true).settled = true := by
  refine ⟨⟨rfl, .inl rfl, rfl⟩, ⟨rfl, .inl rfl, rfl, rfl⟩, ⟨rfl, .inl rfl, rfl, rfl, by decide, rfl⟩, ⟨.inl rfl, rfl, by decide⟩,
    ⟨rfl, .inl rfl, rfl, rfl, by decide, by decide, rfl, rfl⟩, ⟨rfl, rfl, .inl rfl⟩, rfl, .inr ⟨0, rfl, by decide, by decide⟩, rfl⟩

/-- A write frame that is let through; a read frame, which is the other direction; the other outcomes as for WindowRead. -/
theorem wit_WindowWrite :
    let w := { midRead (.s5 1) true with req := writeRequest 0x01 [0x00, 0x02] false, word := 0x2090 }
    (v17.faults = [] ∧ v17.mayCopyOut 0 0xA5 ∧ v17.inflight = false ∧ v17.settled = true ∧ v17.csts = false
      ∧ v17.pending = some ⟨0, 0x2090, 0x01, 0, 0, []⟩ ∧ (0x2090 : Word).getLsbD 7 = true ∧ (0x2090 : Word).getLsbD 13 = true)
    ∧ { v17 with csts := true }.mayCopyOut 0 0xA5 ∧ { v17 with settled := false }.mayCopyOut 0 0xA5
    ∧ v10.mayCopyOut 0x100 0 ∧ v10.pending = some frame3 ∧ frame3.word.getLsbD 13 = false
    ∧ w.busy = true ∧ w.faults = [] ∧ w.mayCopyOut 1 0x02 := by
  refine ⟨⟨rfl, .inl rfl, rfl, rfl, rfl, rfl, by decide, by decide⟩, .inl rfl, .inl rfl, .inl rfl, rfl, by decide, rfl, rfl,
    .inr ⟨1, rfl, by decide, by decide, by decide⟩⟩

theorem wit_StartTransfer :
    (cacheOff.faults = [] ∧ cacheOff.mayAccess .s6Start ∧ cacheOff.pending = none)
    ∧ (v25.faults = [] ∧ v25.mayAccess .s6Start ∧ v25.inflight = true)
    ∧ (v3.mayAccess .s6Start ∧ v3.pending = some frame3 ∧ v3.inflight = false ∧ v3.settled = false)
    ∧ (v10.mayAccess .s6Start ∧ v10.settled = true ∧ { v10 with instrend := true }.instrend = true ∧ v10.instrend = false)
    ∧ (midRead .s6Start true).busy = true ∧ (midRead .s6Start true).mayAccess .s6Start := by unfold State.mayAccess; decide

/-- With no request in progress; and at S6_START with the request's frame word. -/
theorem wit_FrameKinds :
    let w := midRead .s6Start true
    (v10.faults = [] ∧ v10.mayWrite .s6Start (frameWord 1 (frameFields 0x000810B2)) (v10.req.encoded v10.cfg)
      ∧ v10.pending = some frame3 ∧ frame3.word = frameWord 1 (frameFields 0x000810B2)
      ∧ v10.pending.map (·.word) ≠ some (frameWord 0 (frameFields 0x000810B2))
      ∧ v10.inflight = false ∧ v10.settled = true ∧ v10.instrend = false
      ∧ widthLines (frameFields 0x000810B2).width = some (1, 1, 4))
    ∧ w.busy = true ∧ w.mayWrite .s6Start (frameWord 0 (frameFields 0x90)) (w.req.encoded w.cfg)
    ∧ w.pending.map (·.word) = some (frameWord 0 (frameFields 0x90)) := by unfold State.mayWrite; decide

/-- Completion of frame 0, the wedged frame 1, no frame in flight; and a step that sets INSTREND. -/
theorem wit_FrameCompletion :
    (v25.faults = [] ∧ v25.pending.map (·.seq) = some 0 ∧ v25.inflight = true ∧ v25.frameWedged 0 = false)
    ∧ ((waiting 1).pending.map (·.seq) = some 1 ∧ (waiting 1).frameWedged 1 = true)
    ∧ v10.inflight = false ∧ v25.instrend = false ∧ after .complete v25 (·.instrend) = some true := by decide

theorem wit_CompletionPoll :
    (v30.faults = [] ∧ v30.mayAccess .s6Poll ∧ v30.instrend = true)
    ∧ (waiting 0).faults = [] ∧ (waiting 0).mayAccess .s6Poll ∧ (waiting 0).instrend = false := by
  unfold State.mayAccess; decide

theorem wit_FlagClear :
    (v30.faults = [] ∧ v30.mayAccess .s6Clr) ∧ (midRead .s6Clr true).mayAccess .s6Clr
    ∧ (midRead .s6Clr false).mayAccess .s6Clr := by unfold State.mayAccess; decide

theorem wit_CacheControlWrites :
    (inBracket .s2Dis).faults = [] ∧ (inBracket .s2Dis).mayAccess .s2Dis ∧ (inBracket .s7).mayAccess .s7
    ∧ cacheOn.mayAccess .s2Dis := by unfold State.mayAccess; decide

/-- For CacheCleanPoll and CacheInvalidate. -/
theorem wit_CacheCleanPoll_CacheInvalidate :
    (v36.faults = [] ∧ v36.mayAccess .s2Poll ∧ v36.mayAccess .s2Inv ∧ v36.csts = true)
    ∧ (inBracket .s2Poll).mayAccess .s2Poll ∧ (inBracket .s2Inv).mayAccess .s2Inv ∧ (inBracket .s2Inv).csts = false := by
  unfold State.mayAccess; decide

/-- A change to 0, a change to 1, no change, and the wedged second disable. -/
theorem wit_CacheStatusChange :
    (v36.faults = [] ∧ v36.csts ≠ v36.cen ∧ v36.cacheWedged (v36.history.count (.regWrite .cmccCtrl 0x00000000) - 1) = false)
    ∧ ({ cacheOff with cen := true }.csts ≠ { cacheOff with cen := true }.cen) ∧ cacheOn.csts = cacheOn.cen
    ∧ v36.cen = false ∧ v36.cacheWedged 1 = true := by decide

/-- For RegisterReads and HistoryDeterminesState: after reset, and after a register write. -/
theorem wit_RegisterReads_HistoryDeterminesState :
    cacheOn.view = cacheOn.replay
    ∧ after (.wrInstrctrl 0x9F) cacheOn (fun t => decide (t.view = t.replay)) = some true := by decide

/-- For Submission, TemplatesSubmitTheirRequest and ClockRate. -/
theorem wit_Submission_Templates_ClockRate :
    (cacheOff.faults = [] ∧ cacheOff.busy = false) ∧ (midRead .s4 true).faults = [] ∧ (midRead .s4 true).busy = true := by decide

theorem wit_EntryChecks :
    let bad := { inBracket .check with req := eraseRequest 0x20 0x1000000 false }
    (bad.faults = [] ∧ bad.pc = .check ∧ bad.req.firstFailing bad.cfg = some .wf6)
    ∧ ((inBracket .check).pc = .check ∧ (inBracket .check).req.firstFailing (inBracket .check).cfg = none
      ∧ (inBracket .check).enable = true)
    ∧ { inBracket .check with enable := false }.enable = false := by decide

/-- The last byte of the window, where WF7 holds with equality; a window that ends at 2^32, with its last byte moved, and with
length 0 just past it. -/
theorem wit_WindowPointer :
    let s := { inBracket .s1 with req := readMemoryRequest Params.default 0xFFFFFF 1 false }
    let top := { Params.default with windowBase := 0xFF000000, addrLen := .a32 }
    let t := { s with cfg := top }
    let e := { t with req := eraseRequest 0xD8 0x01000000 false }
    (s.faults = [] ∧ s.pc = .s1 ∧ s.req.passes s.cfg .wf7 = true ∧ 0xFFFFFF + s.req.length.toNat = s.cfg.windowSize
      ∧ s.cfg.windowBase.toNat + s.cfg.windowSize < 2 ^ 32)
    ∧ (t.req.passes t.cfg .wf7 = true ∧ t.cfg.windowBase.toNat + t.cfg.windowSize = 2 ^ 32 ∧ 0 < t.req.length.toNat
      ∧ top.wf = true)
    ∧ e.req.passes e.cfg .wf7 = true ∧ e.req.length = 0 ∧ e.req.address.toNat = e.cfg.windowSize
    ∧ e.req.wellFormed e.cfg = true := by decide

/-- A copy row of a read, and of a write with its buffer's byte; the other rows are pc values. -/
theorem wit_ExecIssuesItsRow :
    let s := midRead (.s5 0) true
    let t := { midRead (.s5 1) true with req := writeRequest 0x01 [0x00, 0x02] false, word := 0x2090 }
    (s.pc = .s5 0 ∧ (0 : Word).toNat = (s.ptr - s.cfg.windowBase).toNat + 0 ∧ s.word.getLsbD 13 = false)
    ∧ (t.pc = .s5 1 ∧ (1 : Word).toNat = (t.ptr - t.cfg.windowBase).toNat + 1 ∧ t.word.getLsbD 13 = true
      ∧ t.req.buffer[1]? = some 0x02)
    ∧ cacheOff.pc = .idle ∧ cacheOff.faults = [] ∧ (inBracket .s3Frame).pc = .s3Frame := by decide

theorem wit_ReturnResult : (midRead .ret true).faults = [] ∧ (midRead .ret true).pc = .ret := by decide

/-- Out of its row; and at its row with an operand that is not the request's. -/
theorem wit_AccessOutOfRowIsRefused :
    let s := midRead .s4 true
    let c := midRead (.s5 0) true
    let w := { midRead (.s5 1) true with req := writeRequest 0x01 [0x00, 0x02] false, word := 0x2090 }
    (s.faults = [] ∧ s.busy = true ∧ Instr.start.isAccess = true ∧ ownRow .start s.pc = false
      ∧ (Instr.winRd 0).isAccess = true ∧ ownRow (.winRd 0) s.pc = false)
    ∧ (c.busy = true ∧ c.pc = .s5 0 ∧ (1 : Word).toNat ≠ (c.ptr - c.cfg.windowBase).toNat + 0)
    ∧ (w.busy = true ∧ w.pc = .s5 1 ∧ w.req.buffer[1]? ≠ some 0x03)
    ∧ (inBracket .s3Op).busy = true ∧ (0x55 : Byte) ≠ (inBracket .s3Op).req.instruction.opcode
    ∧ (inBracket .s3Frame).busy = true ∧ (0x10 : Word) ≠ (inBracket .s3Frame).req.encoded (inBracket .s3Frame).cfg := by decide

/-- For ParametersStayAndHistoryGrows, FaultsAndRefusedOnlyGrow, RegistersChangeOnlyByTheirWrites and
ExecutorFieldsChangeOnlyByTheirSteps: a step and an instruction that answer a next state, and a state with the mark. -/
theorem wit_next_states :
    afterStep { cacheOff with script := [0, 0, 0, 0, 25] } (·.history) = some [.barrier .dsb]
    ∧ after .start v13 (·.history.length) = some 2 ∧ after .dsb cacheOff (·.clockHz) = some 0
    ∧ { cacheOff with refused := true }.refused = true := by decide

theorem wit_FaultLeavesEverythingElse : ∃ t, exec .start v25 = .next t ∧ t.faults ≠ v25.faults := ⟨_, rfl, by decide⟩

theorem wit_InvariantsHoldAtReset : Params.default.wf = true := by decide

/-- For SoundKeptByEveryStep and FrameNumberIsFramesBefore: a sound state with a pending frame, which START performs. -/
theorem wit_SoundKeptByEveryStep_FrameNumber :
    v10.sound = true ∧ (∃ t, exec .start v10 = .next t) ∧ ({ v10 with script := [0, 0, 0, 0, 25] } : State).sound = true
    ∧ ∃ t, step { v10 with script := [0, 0, 0, 0, 25] } = .next t := by
  refine ⟨by decide, ⟨_, rfl⟩, by decide, ⟨_, rfl⟩⟩

/-- For CoherentKeptByAgents and OnlyReachableFaults: a copy row, and the copy of an opted-out request that faults. -/
theorem wit_Coherent :
    let s := { midRead (.s5 0) false with csts := true, cen := true }
    (midRead (.s5 0) true).coherent = true ∧ s.coherent = true ∧ Instr.exec.ofAgent = true
    ∧ (∃ t, exec .exec (midRead (.s5 0) true) = .next t) ∧ after .exec s (fun t => t.faults.map (·.code))
      = some [.cacheActiveDataPhase] := by
  refine ⟨by decide, by decide, rfl, ⟨_, rfl⟩, by decide⟩

theorem wit_BracketKeepsCacheOff :
    ((inBracket .s2Inv).coherent = true ∧ (inBracket .s2Inv).faults = [] ∧ (inBracket .s2Inv).pc = .s2Inv)
    ∧ (midRead (.s5 0) true).coherent = true ∧ (midRead (.s5 0) true).faults = [] ∧ (midRead (.s5 0) true).pc = .s5 0
    ∧ (midRead (.s5 0) true).bracket = true ∧ after .dsb { cacheOff with lines := [3] } (·.lines) = some [3] := by decide

/-- The clauses at S1, at S6_CLR and at a copy row with the cache active. -/
theorem wit_OptOutLeavesCacheAlone :
    let s := { midRead (.s5 0) false with csts := true, cen := true }
    let c := { midRead .s6Clr false with pending := none, instrend := true }
    let e := { inBracket .s1 with req := readRequest 0x05 1 true }
    (s.coherent = true ∧ s.busy = true ∧ s.req.optOut = true ∧ s.cfg.cachePresent = true ∧ s.csts = true
      ∧ after .exec s (·.pc) = some (.s5 0))
    ∧ (c.coherent = true ∧ c.req.optOut = true ∧ after .exec c (·.pc) = some .ret)
    ∧ e.coherent = true ∧ e.req.optOut = true ∧ after .exec e (·.pc) = some .s3Op := by decide

/-- A wedged frame at S6_POLL; a wedged disable at S2_POLL. -/
theorem wit_WedgesHangWithoutFault :
    let s := waiting 1
    let c := { inBracket .s2Poll with csts := true, history := [.regWrite .cmccCtrl 0, .regWrite .cmccCtrl 0] }
    (s.faults = [] ∧ s.pc = .s6Poll ∧ s.pending.map (·.seq) = some 1 ∧ s.inflight = true ∧ s.instrend = false
      ∧ s.frameWedged 1 = true)
    ∧ c.faults = [] ∧ c.pc = .s2Poll ∧ c.cen = false ∧ c.csts = true ∧ c.cacheWedged c.disableIndex = true := by decide

/-- A bracketed read with the cache on; an opted-out write with the cache off. -/
theorem wit_RequestRunsToCompletion :
    (cacheOn.cfg.wf = true ∧ cacheOn.ready = true ∧ (readRequest 0x05 1 false).wellFormed cacheOn.cfg = true
      ∧ cacheOn.frameWedged cacheOn.nextSeq = false ∧ (readRequest 0x05 1 false).bracketed cacheOn.cfg = true
      ∧ cacheOn.csts = true ∧ cacheOn.cacheWedged (cacheOn.history.count (.regWrite .cmccCtrl 0)) = false)
    ∧ cacheOff.cfg.wf = true ∧ cacheOff.ready = true ∧ (writeRequest 0x01 [0x02] true).wellFormed cacheOff.cfg = true
    ∧ cacheOff.frameWedged cacheOff.nextSeq = false ∧ (writeRequest 0x01 [0x02] true).bracketed cacheOff.cfg = false
    ∧ 0 < (writeRequest 0x01 [0x02] true).length.toNat ∧ cacheOff.csts = false := by decide

/-- The instructions of a fair run: the frame in flight completes, then the executor steps for ever. -/
def fairActs : Nat → Instr
  | 0     => .complete
  | _ + 1 => .exec

/-- Its first four states: in flight, completed, polled, cleared. -/
def fairStates : List State :=
  let s1 : State := { waiting 0 with instrend := true, inflight := false, pending := none, history := [.complete 0] }
  let s2 : State := { s1 with pc := .s6Clr, draws := 1, history := s1.history ++ [.regRead .intflag 0x00000403] }
  let s3 : State := { s2 with pc := .ret, instrend := false, history := s2.history ++ [.regWrite .intflag 0x00000400] }
  [waiting 0, s1, s2, s3]

/-- The state after its return, FAIL by the second draw. -/
def fairEnd : State :=
  { (fairStates[3]?.getD cacheOff) with
    busy := false, pc := .idle, draws := 2, result := some .fail,
    history := [.complete 0, .regRead .intflag 0x00000403, .regWrite .intflag 0x00000400, .returned .fail] }

/-- The run. -/
def fairRun (n : Nat) : State := fairStates[n]?.getD fairEnd

theorem fairRun_late (n : Nat) (h : 4 ≤ n) : fairRun n = fairEnd := by
  have : fairStates[n]? = none := List.getElem?_eq_none_iff.mpr h
  simp [fairRun, this]

/-- A property of the run holds of every state if it holds of the first five. -/
theorem fairRun_all {P : State → Prop} (h : P (fairRun 0) ∧ P (fairRun 1) ∧ P (fairRun 2) ∧ P (fairRun 3) ∧ P fairEnd) (n : Nat) :
    P (fairRun n) := by
  obtain ⟨h0, h1, h2, h3, h4⟩ := h
  match n with
  | 0 => exact h0
  | 1 => exact h1
  | 2 => exact h2
  | 3 => exact h3
  | n + 4 => rw [fairRun_late _ (by omega)]; exact h4

/-- R157: a fair run whose frame is not wedged, from a coherent state with a request in progress. -/
theorem wit_FairRunsReturn :
    IsRun fairActs fairRun ∧ WeaklyFair fairActs fairRun ∧ (∀ n, (fairActs n).ofAgent = true)
    ∧ (fairRun 0).coherent = true ∧ (fairRun 0).busy = true
    ∧ (∀ (n : Nat) (p : FrameRecord), (fairRun n).pending = some p → (fairRun n).frameWedged p.seq = false)
    ∧ (∀ n, (fairRun n).csts = true → (fairRun n).cen = false → (fairRun n).cacheWedged (fairRun n).disableIndex = false) := by
  refine ⟨fun n => ?_, fun a n => ⟨n + 4, by omega, .inl ?_⟩, fun n => by cases n <;> rfl, by decide, by decide, ?_, ?_⟩
  · match n with
    | 0 => rfl
    | 1 => rfl
    | 2 => rfl
    | 3 => rfl
    | n + 4 =>
      rw [fairRun_late _ (show 4 ≤ n + 4 by omega), fairRun_late _ (show 4 ≤ n + 4 + 1 by omega)]; rfl
  · rw [fairRun_late _ (by omega)]; cases a <;> decide
  · refine fairRun_all (P := fun s => ∀ p : FrameRecord, s.pending = some p → s.frameWedged p.seq = false) ?_
    refine ⟨fun p hp => ?_, ?_, ?_, ?_, ?_⟩
    · have : p = { seq := 0, word := 0x10, opcode := 0x06, addr := 0, next := 0, data := [] } := by
        simpa [fairRun, fairStates, waiting, eq_comm] using hp
      subst this; decide
    all_goals (intro p hp; exact absurd hp (by simp [fairRun, fairStates, fairEnd]))
  · exact fairRun_all (P := fun s => s.csts = true → s.cen = false → s.cacheWedged s.disableIndex = false) (by decide)

end Sys2Proof.Tests
end

/-! Proofs about the scope (00_scope.md): what one step runs. -/

namespace Sys2Proof.Machine

/-- Instructions come from a script (Log 8): a live machine runs the one its script begins with, on the bytes after it. -/
theorem step_eq_exec_of_fetch {s : State} {i : Instr} {rest : List Byte} (live : s.faults = []) (hne : s.script ≠ [])
    (hf : s.fetch = .instr i rest) : step s = exec i (s.withScript rest) := by
  obtain ⟨b, bs, hs⟩ := List.exists_cons_of_ne_nil hne
  simp only [step, State.haltedBy_live live, hs, hf]

/-- Without a script the schedule is free (Log 22): a live machine takes a drawn agent's own step. -/
theorem step_eq_exec_freeInstr {s : State} (live : s.faults = []) (hs : s.script = []) :
    step s = exec s.freeInstr s.drew := by
  simp only [step, State.haltedBy_live live, hs]

/-- Settles O3: by the two kinds of step of a live machine, from its script and by a free agent. -/
theorem stepRunsDecodedInstruction : Obligations.StepRunsDecodedInstruction := by
  intro s live
  constructor
  · intro i rest hne hdec
    exact step_eq_exec_of_fetch live hne hdec
  · intro hs
    have free : s.freeInstr ∈ [Instr.exec, .complete, .cacheSettle] := by simpa using s.freeInstr_cases
    exact ⟨s.freeInstr, free, step_eq_exec_freeInstr live hs⟩

end Sys2Proof.Machine

/-! Proofs about the state (10_state.md): what each step changes of each field, and what every step keeps. -/

namespace Sys2Proof.Machine

/-! ## Operations as the updates they are -/

@[simp] theorem State.writeCmccCtrl_updates (s : State) (v : Word) :
    s.writeCmccCtrl v = { s with cen := cenOfWrite v }.log (.regWrite .cmccCtrl v) := rfl

@[simp] theorem State.windowPointer_updates (s : State) : s.windowPointer =
    { s with ptr := s.cfg.windowBase + s.req.off, bracket := s.cfg.cachePresent && !s.req.optOut }.stepPc := rfl

@[simp] theorem State.performFrame_updates (s : State) (p : FrameRecord) : s.performFrame p =
    (({ s with enable := true, inflight := true }.log (.frame (frameEventOf p s.optCode))).log
      (.regWrite .ctrla startWord)).advanceAt .s6Start := rfl

@[simp] theorem State.returnRequest_updates (s : State) : s.returnRequest =
    { s with draws := if s.cfg.failureAdmitted then s.draws + 1 else s.draws, result := some s.returnValue, busy := false,
             pc := .idle }.log (.returned s.returnValue) := s.returnRequest_eq

@[simp] theorem State.encodeOut_updates (s : State) (d : Descriptor) (txPresent : Bool) (length : Word) :
    s.encodeOut d txPresent length = { s with encOut := encodeFrame s.cfg.addrLen d txPresent length } := rfl

variable {s t : State} {i : Instr}

/-! ## Soundness (R20, R21, R26, R29, R30, R121, R137) -/

/-- What `State.sound` says, clause by clause. -/
structure Sound (s : State) : Prop where
  ctrlBits : s.instrctrl.extractLsb' 8 24 = 0
  frameWord : reservedWord s.instrframe = false
  pending : ∀ p, s.pending = some p → s.pendingSound p = true
  inflight : s.inflight = true → s.pending.isSome = true
  busy : s.busy = true ↔ s.pc ≠ .idle
  faults : s.faults.length ≤ 1
  lines : s.lines.Pairwise (· < ·)
  numbered : s.numbered = true

theorem State.sound_iff : s.sound = true ↔ Sound s := by
  have split : s.sound = true ↔ s.instrctrl.extractLsb' 8 24 = 0 ∧ reservedWord s.instrframe = false ∧
      (∀ p, s.pending = some p → s.pendingSound p = true) ∧ (s.inflight = true → s.pending.isSome = true) ∧
      (s.busy = true ↔ s.pc ≠ .idle) ∧ s.faults.length ≤ 1 ∧ s.lines.Pairwise (· < ·) ∧ s.numbered = true := by
    unfold State.sound
    cases s.pending <;> cases s.inflight <;> cases s.busy <;> simp [and_assoc, bne_iff_ne]
  rw [split]
  exact ⟨fun ⟨a, b, c, d, e, f, g, h⟩ => ⟨a, b, c, d, e, f, g, h⟩,
    fun ⟨a, b, c, d, e, f, g, h⟩ => ⟨a, b, c, d, e, f, g, h⟩⟩

/-- What a pending frame agrees with. -/
theorem State.pendingSound_congr (hc : t.cfg = s.cfg) (h1 : t.instrctrl = s.instrctrl) (h2 : t.instraddr = s.instraddr)
    (h3 : t.instrframe = s.instrframe) (h4 : t.nextSeq = s.nextSeq) (p : FrameRecord) : t.pendingSound p = s.pendingSound p := by
  simp [State.pendingSound, State.instrByte, State.firstOffset, *]

/-- A pending frame stays as it should be while one more byte of its data phase moves (R92, R93). -/
theorem State.pendingSound_moved {p q : FrameRecord} {b : Byte} {e : Event} {received : List Byte}
    (data : dataEn p.word = true) (h : s.pendingSound p = true)
    (pending : (((s.moved p b).log e).copied received).pending = some q) :
    (((s.moved p b).log e).copied received).pendingSound q = true := by
  obtain rfl := Option.some.inj (show some _ = some q by simpa using pending)
  rw [State.pendingSound_congr (s := s)]
  · simp only [State.pendingSound, Bool.and_eq_true, beq_iff_eq] at h ⊢
    obtain ⟨⟨latched, next⟩, -⟩ := h
    exact ⟨⟨latched, by simp [next, Nat.add_assoc]⟩, by simp [data]⟩
  all_goals simp

/-- The pending frame has the latest number given out (R29). -/
theorem State.pendingSound_latest {p : FrameRecord} (h : s.pendingSound p = true) : p.seq + 1 = s.nextSeq := by
  simp only [State.pendingSound, Bool.and_eq_true, beq_iff_eq] at h
  obtain ⟨⟨⟨-, latest⟩, -⟩, -⟩ := h
  exact latest

/-- An opcode write puts a zero-extended byte into INSTRCTRL (R20, R88). -/
theorem reservedCtrl_setWidth (op : Byte) : (op.setWidth 32 : Word).extractLsb' 8 24 = 0 := by
  apply BitVec.eq_of_getLsbD_eq
  intro k hk
  simp [BitVec.getLsbD_extractLsb', BitVec.getLsbD_setWidth]

theorem Change.keeps_ctrlBits (c : Change s i t) (h : Sound s) : t.instrctrl.extractLsb' 8 24 = 0 := by
  cases c with
  | opcode op => simpa using reservedCtrl_setWidth op
  | _ => simpa using h.ctrlBits

theorem Change.keeps_frameWord (c : Change s i t) (h : Sound s) : reservedWord t.instrframe = false := by
  cases c with
  | frame w _ _ ok => simpa using ok
  | _ => simpa using h.frameWord

theorem Change.keeps_pending (c : Change s i t) (h : Sound s) : ∀ p, t.pending = some p → t.pendingSound p = true := by
  cases c with
  | opcode op _ free => simp [(State.frameHeld_false.mp free).2]
  | address a _ free => simp [(State.frameHeld_false.mp free).2]
  | frame w _ _ ok =>
    intro p hp
    obtain rfl : s.sampleFrame w = p := by simpa using hp
    simp [State.pendingSound, State.sampleFrame, State.instrByte, State.firstOffset, ok]
  | read p o _ pending allowed =>
    obtain ⟨-, data, -⟩ := State.windowFault_none.mp allowed
    exact fun q => State.pendingSound_moved data (h.pending p pending)
  | write p o v _ pending allowed =>
    obtain ⟨-, data, -⟩ := State.windowFault_none.mp allowed
    exact fun q => State.pendingSound_moved data (h.pending p pending)
  | complete => simp
  | _ =>
    intro p hp
    rw [State.pendingSound_congr (s := s)]
    · exact h.pending p (by simpa using hp)
    all_goals simp

theorem Change.keeps_inflight (c : Change s i t) (h : Sound s) : t.inflight = true → t.pending.isSome = true := by
  cases c with
  | frame => simp
  | read => simp
  | write => simp
  | perform p _ pending => simp [pending]
  | complete => simp
  | _ => simpa using h.inflight

/-- Only the return goes to `IDLE` (R25, R118). -/
theorem State.nextPc_eq_idle : s.nextPc = .idle ↔ s.pc = .ret := by
  cases h : s.pc <;> simp [State.nextPc, h, ite_eq_iff]

/-- A primitive's own row is neither `IDLE` nor `RET`: the executor is idle after it where it was before it. -/
theorem State.advanceAt_pc_idle {row : Pc} (idle : row ≠ .idle) (ret : row ≠ .ret) :
    (s.advanceAt row).pc = .idle ↔ s.pc = .idle := by
  rw [State.advanceAt_pc]
  split
  · next h => simp [State.nextPc_eq_idle, h, idle, ret]
  · rfl

theorem State.keepWord_pc_idle (w : Word) : (s.keepWord w).pc = .idle ↔ s.pc = .idle := by
  rw [State.keepWord_pc]
  split
  · next h => simp [h]
  · rfl

theorem State.copied_pc_idle (bs : List Byte) : (s.copied bs).pc = .idle ↔ s.pc = .idle := by
  rw [State.copied_pc]
  split
  · next h =>
    obtain ⟨n, hn⟩ := s.atCopy_iff.mp h
    simp [State.nextPc_eq_idle, hn]
  · rfl

theorem Change.keeps_busy (c : Change s i t) (h : Sound s) : t.busy = true ↔ t.pc ≠ .idle := by
  cases c with
  | submitted => simp
  | returned => simp
  | checked _ row => simp [h.busy, State.nextPc_eq_idle, row]
  | pointer _ row => simp [h.busy, State.nextPc_eq_idle, row]
  | barrier k row own =>
    obtain ⟨idle, ret⟩ : row ≠ .idle ∧ row ≠ .ret := by rcases own with ⟨-, rfl, -⟩ | ⟨-, rfl, -⟩ <;> simp
    rw [ne_eq, State.advanceAt_pc_idle idle ret]
    simpa using h.busy
  | _ => simpa [-State.advanceAt_pc, -State.keepWord_pc, State.advanceAt_pc_idle, State.keepWord_pc_idle,
      State.copied_pc_idle] using h.busy

theorem Change.keeps_faults (c : Change s i t) (live : s.faults = []) : t.faults.length ≤ 1 := by
  cases c with
  | raised code info => simp [live]
  | _ => simp [live]

theorem Change.keeps_lines (c : Change s i t) (h : Sound s) : t.lines.Pairwise (· < ·) := by
  cases c with
  | invalidated => simp
  | _ => simpa using h.lines

/-- Frames are numbered in the order in which they are performed (R29, R121). -/
theorem State.numbered_iff : s.numbered = true ↔
    (framesOf s.history).map (·.seq) = List.range (framesOf s.history).length ∧
      s.nextSeq = (framesOf s.history).length + (if s.pending.isSome && !s.inflight then 1 else 0) := by
  simp [State.numbered]

@[simp] theorem framesOf_append (es es' : List Event) : framesOf (es ++ es') = framesOf es ++ framesOf es' :=
  List.filterMap_append

@[simp] theorem framesOf_singleton (e : Event) : framesOf [e] = (frameEventOf? e).toList := by
  cases h : frameEventOf? e <;> simp [framesOf, h]

theorem Change.keeps_numbered (c : Change s i t) (h : Sound s) : t.numbered = true := by
  obtain ⟨order, count⟩ := State.numbered_iff.mp h.numbered
  rw [State.numbered_iff]
  cases c with
  | frame w _ free =>
    obtain ⟨idle, none⟩ := State.frameHeld_false.mp free
    simpa [idle, none, frameEventOf?, order] using count
  | read p o _ pending => simpa [frameEventOf?, order, pending] using count
  | write p o v _ pending => simpa [frameEventOf?, order, pending] using count
  | perform p _ pending idle =>
    have latest := State.pendingSound_latest (h.pending p pending)
    simp only [pending, idle, Option.isSome_some, Bool.not_false, Bool.and_self, if_true] at count
    have number : p.seq = (framesOf s.history).length := by omega
    have performed : framesOf (s.performFrame p).history = framesOf s.history ++ [frameEventOf p s.optCode] := by
      simp [framesOf, frameEventOf?]
    rw [performed]
    constructor
    · simp [frameEventOf, order, number, List.range_succ]
    · simpa [pending] using count
  | complete p _ pending inflight => simpa [frameEventOf?, order, pending, inflight] using count
  | _ => simpa [frameEventOf?, order] using count

theorem Change.keeps_sound (c : Change s i t) (live : s.faults = []) (h : Sound s) : Sound t where
  ctrlBits := c.keeps_ctrlBits h
  frameWord := c.keeps_frameWord h
  pending := c.keeps_pending h
  inflight := c.keeps_inflight h
  busy := c.keeps_busy h
  faults := c.keeps_faults live
  lines := c.keeps_lines h
  numbered := c.keeps_numbered h

/-- Settles O51: every change keeps each clause, and a script, a drawn agent or a refused mark touches none. -/
theorem soundKeptByEveryStep : Obligations.SoundKeptByEveryStep := by
  have onExec : ∀ s t i, exec i s = .next t → s.sound = true → t.sound = true := by
    intro s t i h hs
    obtain ⟨live, c⟩ := Change.of_exec h
    exact State.sound_iff.mpr (c.keeps_sound live (State.sound_iff.mp hs))
  exact ⟨fun s t i hs h => onExec s t i h hs, fun s t hs h =>
    step_keeps (fun s t => s.sound = true → t.sound = true) onExec (fun _ _ _ h => h) (fun _ _ h => h) (fun _ _ h => h)
      (fun _ _ h => h) s t h hs⟩

/-! ## What a change appends to the history (R31), and what its events say of the state -/

/-- `t` has the events `es` after those of `s`, and its view is what they make of the view of `s`. -/
def State.Appends (s t : State) (es : List Event) : Prop :=
  t.history = s.history ++ es ∧ t.view = es.foldl View.after s.view

theorem State.Appends.nothing (history : t.history = s.history) (view : t.view = s.view) : s.Appends t [] :=
  ⟨by simp [history], view⟩

/-- One event appended to an update of the state that the event tells of. -/
theorem State.Appends.event {e : Event} (history : t.history = s.history) (view : t.view = s.view.after e) :
    s.Appends (t.log e) [e] :=
  ⟨by simp [history], view⟩

theorem State.advanceAt_view (row : Pc) : (s.advanceAt row).view = s.view := by simp [State.view]
theorem State.keepWord_view (w : Word) : (s.keepWord w).view = s.view := by simp [State.view]
theorem State.copied_view (bs : List Byte) : (s.copied bs).view = s.view := by simp [State.view]

theorem State.Appends.advanceAt {es : List Event} (row : Pc) (h : s.Appends t es) : s.Appends (t.advanceAt row) es :=
  ⟨by simpa using h.1, by simpa [State.advanceAt_view] using h.2⟩

theorem State.Appends.keepWord {es : List Event} (w : Word) (h : s.Appends t es) : s.Appends (t.keepWord w) es :=
  ⟨by simpa using h.1, by simpa [State.keepWord_view] using h.2⟩

theorem State.Appends.copied {es : List Event} (bs : List Byte) (h : s.Appends t es) : s.Appends (t.copied bs) es :=
  ⟨by simpa using h.1, by simpa [State.copied_view] using h.2⟩

/-- The events a change can append: at most one, or the two of a frame performed (R94). -/
def EventsOfStep (es : List Event) : Prop := es.length ≤ 1 ∨ ∃ e, es = [.frame e, .regWrite .ctrla startWord]

/-- Every change appends at most one event, or the two of a frame performed, and they tell of all it does to the view. -/
theorem Change.appends (c : Change s i t) : ∃ es, s.Appends t es ∧ EventsOfStep es := by
  have one {e : Event} {t : State} (h : s.Appends t [e]) : ∃ es, s.Appends t es ∧ EventsOfStep es :=
    ⟨[e], h, .inl (by simp)⟩
  cases c with
  | held | raised | refused | checked | clock | encoded => exact ⟨[], .nothing rfl rfl, .inl (by simp)⟩
  | pointer => exact ⟨[], .nothing rfl rfl, .inl (by simp)⟩
  | frame => exact one (.keepWord _ (.event rfl rfl))
  | read => exact one (.copied _ (.event rfl rfl))
  | write => exact one (.copied _ (.event rfl rfl))
  | complete => exact one (.event rfl rfl)
  | cacheStatus => exact one (.event rfl rfl)
  | submitted => exact one (.event rfl rfl)
  | returned => rw [State.returnRequest_eq]; exact one ⟨rfl, rfl⟩
  | perform p => rw [State.performFrame_eq]; exact ⟨_, ⟨rfl, rfl⟩, .inr ⟨_, rfl⟩⟩
  | _ => exact one (.advanceAt _ (.event rfl rfl))

theorem Change.cfg_eq (c : Change s i t) : t.cfg = s.cfg := by
  cases c with
  | _ => simp

/-- A step, of an instruction or of a foreign agent, appends what a change can append, and keeps the parameters. -/
theorem step_appends (h : step s = .next t) : t.cfg = s.cfg ∧ ∃ es, s.Appends t es ∧ EventsOfStep es :=
  step_keeps (fun s t => t.cfg = s.cfg ∧ ∃ es, s.Appends t es ∧ EventsOfStep es)
    (fun _ _ _ h => have c := (Change.of_exec h).2; ⟨c.cfg_eq, c.appends⟩) (fun _ _ _ h => h) (fun _ _ h => h)
    (fun _ _ => ⟨rfl, [], .nothing rfl rfl, .inl (by simp)⟩)
    (fun _ _ => ⟨rfl, [], .nothing rfl rfl, .inl (by simp)⟩) s t h

/-- The replay of a longer history goes on from the replay of the shorter one. -/
theorem State.Appends.replay {es : List Event} (h : s.Appends t es) (cfg : t.cfg = s.cfg) (sees : s.view = s.replay) :
    t.view = t.replay := by
  obtain ⟨history, view⟩ := h
  rw [view, State.replay, history, cfg, List.foldl_append, sees, State.replay]

/-- Settles O53: the view starts as the launch view, and each change's events tell of all it does to it. -/
theorem historyDeterminesState : Obligations.HistoryDeterminesState := by
  refine ⟨fun p => ⟨rfl, rfl⟩, fun s t i sees h => ?_, fun s t sees h => ?_⟩
  · have c := (Change.of_exec h).2
    obtain ⟨es, appends, -⟩ := c.appends
    exact appends.replay c.cfg_eq sees
  · obtain ⟨cfg, es, appends, -⟩ := step_appends h
    exact appends.replay cfg sees

theorem Change.clockHz_eq (c : Change s i t) (h : ∀ hz, i ≠ .setclk hz) : t.clockHz = s.clockHz := by
  cases c with
  | clock hz set => exact absurd set (h hz)
  | _ => simp

/-- Settles O45: a change appends at most one event or a performed frame's two, and only `clock` writes the clock rate. -/
theorem parametersStayAndHistoryGrows : Obligations.ParametersStayAndHistoryGrows := by
  refine ⟨fun s t h => ?_, fun s t i h notClock => (Change.of_exec h).2.clockHz_eq notClock⟩
  obtain ⟨cfg, es, appends, events⟩ := step_appends h
  exact ⟨cfg, es, appends.1, events⟩

/-! ## Faults and the refused mark (R34, R137) -/

theorem Change.faults_grow (c : Change s i t) : t.faults = s.faults ∨ ∃ f, t.faults = s.faults ++ [f] := by
  cases c with
  | raised code info => exact .inr ⟨_, rfl⟩
  | _ => left; simp

theorem Change.refused_eq (c : Change s i t) : t.refused = s.refused ∨ (i.isAccess = true ∧ t.refused = true) := by
  cases c with
  | refused access => exact .inr ⟨access, rfl⟩
  | _ => left; simp

/-- Settles O46: only `raised` writes the faults, by one more, and the refused mark is only ever set. -/
theorem faultsAndRefusedOnlyGrow : Obligations.FaultsAndRefusedOnlyGrow := by
  refine ⟨fun p => ⟨rfl, rfl⟩, ?_, fun s bad => ?_⟩
  · refine step_keeps _ (fun s t i h => ?_) (fun _ _ _ h => h) (fun _ _ h => h) (fun _ _ => ⟨.inl rfl, id⟩)
      (fun _ _ => ⟨.inl rfl, fun _ => rfl⟩)
    have c := (Change.of_exec h).2
    exact ⟨c.faults_grow, fun set => c.refused_eq.elim (fun e => e.trans set) And.right⟩
  · rcases bad with faulted | refused
    · simp [State.runEnded, State.cleanEntry, faulted]
    · simp [State.runEnded, State.cleanEntry, refused]

/-! ## Which instruction changes a register, a flag or the cache set (R18, R28, R29, R42, R90, R97) -/

theorem Change.instrctrl_writer (c : Change s i t) :
    t.instrctrl = s.instrctrl ∨ (∃ op, i = .wrInstrctrl op) ∨ (i = .exec ∧ s.pc = .s3Op) := by
  cases c with
  | opcode op own => exact .inr (own.imp (fun h => ⟨op, h⟩) fun h => ⟨h.1, h.2.1⟩)
  | _ => left; simp

theorem Change.instraddr_writer (c : Change s i t) :
    t.instraddr = s.instraddr ∨ (∃ a, i = .wrInstraddr a) ∨ (i = .exec ∧ s.pc = .s3Addr) := by
  cases c with
  | address a own => exact .inr (own.imp (fun h => ⟨a, h⟩) fun h => ⟨h.1, h.2.1⟩)
  | _ => left; simp

theorem Change.frame_writer (c : Change s i t) :
    (t.instrframe = s.instrframe ∧ t.nextSeq = s.nextSeq) ∨
      (∃ w, i = .wrInstrframe w) ∨ (i = .exec ∧ s.pc = .s3Frame) := by
  cases c with
  | frame w own => exact .inr (own.imp (fun h => ⟨w, h⟩) fun h => ⟨h.1, h.2.1⟩)
  | _ => left; simp

theorem Change.settled_writer (c : Change s i t) :
    t.settled = s.settled ∨ (∃ w, i = .wrInstrframe w) ∨ i = .rdInstrframe ∨
      (i = .exec ∧ (s.pc = .s3Frame ∨ s.pc = .s4)) := by
  cases c with
  | frame w own => exact .inr (own.imp (fun h => ⟨w, h⟩) fun h => .inr ⟨h.1, .inl h.2.1⟩)
  | settle own => exact .inr (.inr (own.imp id fun h => ⟨h.1, .inr h.2⟩))
  | _ => left; simp

/-- The instructions that perform a frame: the start write, by itself or as a frame kind (R94). -/
def Performs (i : Instr) : Prop :=
  i = .start ∨ ∃ f, i = .frameRead f ∨ i = .frameReadMemory f ∨ i = .frameWrite f ∨ i = .frameWriteMemory f

theorem Change.enable_writer (c : Change s i t) :
    t.enable = s.enable ∨ Performs i ∨ (i = .exec ∧ s.pc = .s6Start) := by
  cases c with
  | perform p own =>
    rcases own with h | ⟨f, h⟩ | h
    · exact .inr (.inl (.inl h))
    · exact .inr (.inl (.inr ⟨f, h.imp And.left (Or.imp And.left (Or.imp And.left And.left))⟩))
    · exact .inr (.inr h)
  | _ => left; simp

theorem Change.cen_writer (c : Change s i t) :
    t.cen = s.cen ∨ i = .cacheDisable ∨ i = .cacheEnable ∨ (i = .exec ∧ (s.pc = .s2Dis ∨ s.pc = .s7)) := by
  cases c with
  | disabled own => exact .inr (own.imp id fun h => .inr ⟨h.1, .inl h.2⟩)
  | enabled own => exact .inr (.inr (own.imp id fun h => ⟨h.1, .inr h.2⟩))
  | _ => left; simp

theorem Change.csts_writer (c : Change s i t) : t.csts = s.csts ∨ i = .cacheSettle := by
  cases c with
  | cacheStatus own => exact .inr own
  | _ => left; simp

theorem Change.lines_writer (c : Change s i t) :
    t.lines = s.lines ∨ i = .cacheInvalidate ∨ (i = .exec ∧ s.pc = .s2Inv) := by
  cases c with
  | invalidated own => exact .inr own
  | _ => left; simp

theorem Change.instrend_writer (c : Change s i t) :
    t.instrend = s.instrend ∨ i = .complete ∨ i = .clrIntflag ∨ (i = .exec ∧ s.pc = .s6Clr) := by
  cases c with
  | complete p own => exact .inr (.inl own)
  | cleared own => exact .inr (.inr own)
  | _ => left; simp

theorem Change.encOut_writer (c : Change s i t) :
    t.encOut = s.encOut ∨ ∃ d txPresent length, i = .encode d txPresent length := by
  cases c with
  | encoded d txPresent length own => exact .inr ⟨d, txPresent, length, own⟩
  | _ => left; simp

/-- Settles O48: for each register or flag, the changes that write it are those of its instructions. -/
theorem registersChangeOnlyByTheirWrites : Obligations.RegistersChangeOnlyByTheirWrites := by
  intro s t i h
  have c := (Change.of_exec h).2
  exact ⟨c.instrctrl_writer, c.instraddr_writer, c.frame_writer, c.settled_writer, c.enable_writer, c.cen_writer,
    c.csts_writer, c.lines_writer, c.instrend_writer, c.encOut_writer, c.refused_eq.imp id And.left⟩

/-! ## Which step changes a field of the executor (R25, R26, R107, R108, R113, R115, R118, R121) -/

theorem Change.request_writer (c : Change s i t) :
    (t.req = s.req ∧ (s.busy = false → t.busy = false)) ∨ i.submits = true := by
  cases c with
  | submitted r own => exact .inr own
  | _ => left; simp

theorem Change.result_writer (c : Change s i t) :
    (t.result = s.result ∧ (s.busy = true → t.busy = true)) ∨ (i = .exec ∧ s.pc = .ret) := by
  cases c with
  | returned own row => exact .inr ⟨own, row⟩
  | _ => left; simp

theorem Change.pointer_writer (c : Change s i t) :
    (t.ptr = s.ptr ∧ t.bracket = s.bracket) ∨ (i = .exec ∧ s.pc = .s1) := by
  cases c with
  | pointer own row => exact .inr ⟨own, row⟩
  | _ => left; simp

theorem Change.word_writer (c : Change s i t) :
    t.word = s.word ∨ (s.pc = .s3Frame ∧ (i = .exec ∨ ∃ w, i = .wrInstrframe w)) := by
  cases c with
  | frame w own =>
    by_cases row : s.pc = .s3Frame
    · exact .inr ⟨row, own.symm.imp And.left fun h => ⟨w, h⟩⟩
    · left; simp [row]
  | _ => left; simp

/-- Away from the copy rows a window access is the primitive alone (Log 13). -/
theorem State.copied_of_not_atCopy {u : State} {bs : List Byte} (same : u.pc = s.pc) (row : ¬s.atCopy = true) :
    u.copied bs = u := by
  have : u.atCopy = s.atCopy := by simp [State.atCopy, same]
  unfold State.copied
  split
  · next n hn => exact absurd (u.atCopy_iff.mpr ⟨n, hn⟩) (this ▸ row)
  · rfl

theorem Change.rx_writer (c : Change s i t) :
    t.rx = s.rx ∨ i.submits = true ∨ ((∃ n, s.pc = .s5 n) ∧ (i = .exec ∨ ∃ o, i = .winRd o)) := by
  cases c with
  | read p o own =>
    by_cases row : s.atCopy = true
    · exact .inr (.inr ⟨s.atCopy_iff.mp row, own.symm.imp And.left fun ⟨o', h, _⟩ => ⟨o', h⟩⟩)
    · exact .inl (by rw [State.copied_of_not_atCopy (u := (s.moved p _).log _) rfl row]; rfl)
  | write => left; simp [State.copied_rx]
  | submitted r own => exact .inr (.inl own)
  | _ => left; simp

/-- The steps that move the executor (R25, R87): a submission, its own step, and an access or a barrier at its row. -/
def MovesPc (s : State) (i : Instr) : Prop :=
  (i.submits = true ∧ s.busy = false) ∨ i = .exec ∨ ownRow i s.pc = true ∨ (i = .dsb ∧ s.pc = .s6Dsb)
    ∨ (i = .isb ∧ s.pc = .s6Isb)

theorem Change.pc_writer (c : Change s i t) : t.pc = s.pc ∨ MovesPc s i := by
  by_cases executor : i = .exec
  · exact .inr (.inr (.inl executor))
  have ofRow {u : State} {row : Pc} (same : u.pc = s.pc) (moves : s.pc = row → MovesPc s i) :
      (u.advanceAt row).pc = s.pc ∨ MovesPc s i := by
    by_cases atRow : s.pc = row
    · exact .inr (moves atRow)
    · left; simp [same, atRow]
  have ofAccess {u : State} {j : Instr} {row : Pc} {P : Prop} (same : u.pc = s.pc) (own : i = j ∨ (i = .exec ∧ P))
      (its : ownRow j row = true) : (u.advanceAt row).pc = s.pc ∨ MovesPc s i :=
    ofRow same fun atRow => .inr (.inr (.inl (by rw [own.resolve_right fun h => executor h.1, atRow, its])))
  have ofCopy {u : State} {bs : List Byte} (same : u.pc = s.pc) (moves : ∀ n, s.pc = .s5 n → MovesPc s i) :
      (u.copied bs).pc = s.pc ∨ MovesPc s i := by
    by_cases atRow : s.atCopy = true
    · obtain ⟨n, row⟩ := s.atCopy_iff.mp atRow
      exact .inr (moves n row)
    · exact .inl (by rw [State.copied_of_not_atCopy same atRow, same])
  cases c with
  | opcode op own => exact ofAccess rfl own rfl
  | address a own => exact ofAccess rfl own rfl
  | settle own => exact ofAccess rfl own rfl
  | polled own => exact ofAccess rfl own rfl
  | cleared own => exact ofAccess rfl own rfl
  | disabled own => exact ofAccess rfl own rfl
  | enabled own => exact ofAccess rfl own rfl
  | clean own => exact ofAccess rfl own rfl
  | invalidated own => exact ofAccess rfl own rfl
  | barrier k row own =>
    refine ofRow rfl fun atRow => ?_
    rcases own with ⟨-, rfl, h⟩ | ⟨-, rfl, h⟩
    · exact .inr (.inr (.inr (.inl ⟨h.resolve_right fun h => executor h.1, atRow⟩)))
    · exact .inr (.inr (.inr (.inr ⟨h.resolve_right fun h => executor h.1, atRow⟩)))
  | perform p own =>
    refine ofRow rfl fun atRow => .inr (.inr (.inl ?_))
    rw [atRow]
    rcases own with rfl | ⟨f, ⟨rfl, -⟩ | ⟨rfl, -⟩ | ⟨rfl, -⟩ | ⟨rfl, -⟩⟩ | ⟨own, -⟩
    exacts [rfl, rfl, rfl, rfl, rfl, absurd own executor]
  | frame w own =>
    by_cases atRow : s.pc = .s3Frame
    · exact .inr (.inr (.inr (.inl (by rw [own.resolve_right fun h => executor h.1, atRow]; rfl))))
    · left; simp [atRow]
  | read p o own =>
    refine ofCopy rfl fun n row => ?_
    obtain ⟨o', rfl, -⟩ := own.resolve_right fun h => executor h.1
    exact .inr (.inr (.inl (by rw [row]; rfl)))
  | write p o v own =>
    refine ofCopy rfl fun n row => ?_
    obtain ⟨o', rfl, -⟩ := own.resolve_right fun h => executor h.1
    exact .inr (.inr (.inl (by rw [row]; rfl)))
  | checked own => exact absurd own executor
  | pointer own => exact absurd own executor
  | returned own => exact absurd own executor
  | submitted r own _ free => exact .inr (.inl ⟨own, free⟩)
  | _ => left; simp

theorem Change.script_eq (c : Change s i t) : t.script = s.script := by
  cases c with
  | held => rfl
  | _ => simp

/-- Settles O49: for each field of the executor, the changes that write it are those of its steps. -/
theorem executorFieldsChangeOnlyByTheirSteps : Obligations.ExecutorFieldsChangeOnlyByTheirSteps := by
  intro s t i h
  have c := (Change.of_exec h).2
  exact ⟨c.request_writer, c.result_writer, c.pointer_writer, c.word_writer, c.rx_writer, c.pc_writer, c.script_eq⟩

/-! ## The executor's step is its row's primitive (R107, R111, R113-R117) -/

/-- Two instructions with one effect are one step, from a live state and from a faulted one. -/
theorem exec_eq_of_effect {j : Instr} (h : effect i s = effect j s) : exec i s = exec j s := by
  rw [exec_eq_effect, exec_eq_effect, State.whenLive, State.whenLive, h]

/-- Where the executor issues an access, its step is that access. -/
theorem exec_exec_eq_access {j : Instr} (f : State → State) (own : s.issues j = true)
    (access : effect j s = s.access (s.issues j) f) (step : s.executorStep = f s) : exec .exec s = exec j s :=
  exec_eq_of_effect (by rw [access, State.access_own f (.inr own)]; exact step)

/-- At a copy row the step moves the request's byte, in the direction of the frame word's write bit (R115). -/
theorem exec_exec_eq_copy {n : Nat} {b : Byte} {o : Word} (row : s.pc = .s5 n) (offset : o.toNat = s.copyOffset n) :
    (writeBit s.word = true → s.req.buffer[n]? = some b → exec .exec s = exec (.winWr o b) s)
      ∧ (writeBit s.word = false → exec .exec s = exec (.winRd o) s) := by
  constructor
  · intro write byte
    refine exec_exec_eq_access (·.windowWrite o.toNat b) ?_ rfl ?_
    · simp [State.issues, row, write, offset, byte]
    · simp [State.executorStep, row, State.copyByte, write, offset, State.bufferByte, byte]
  · intro read
    refine exec_exec_eq_access (·.windowRead o.toNat) ?_ rfl ?_
    · simp [State.issues, row, read, offset]
    · simp [State.executorStep, row, State.copyByte, read, offset]

/-- Settles O41: row by row, the executor issues the access with the request's operand, and its step is that primitive. -/
theorem execIssuesItsRow : Obligations.ExecIssuesItsRow := by
  intro s
  dsimp only
  refine ⟨fun row live => ?_, fun row => ?_, fun row => ?_, fun row => ?_, fun row => ?_, fun row => ?_, fun row => ?_,
    fun row => ?_, fun n b o row offset => exec_exec_eq_copy row offset, fun row => ?_, fun row => ?_, fun row => ?_,
    fun row => ?_, fun row => ?_, fun row => ?_⟩
  · rw [exec_live live]; simp [effect, State.executorStep, row]
  · exact exec_exec_eq_access (·.disableCache) (by simp [State.issues, row]) rfl (by simp [State.executorStep, row])
  · exact exec_exec_eq_access (·.pollClean) (by simp [State.issues, row]) rfl (by simp [State.executorStep, row])
  · exact exec_exec_eq_access (·.invalidateCache) (by simp [State.issues, row]) rfl (by simp [State.executorStep, row])
  · exact exec_exec_eq_access (·.programOpcode s.req.instruction.opcode) (by simp [State.issues, row]) rfl
      (by simp [State.executorStep, row])
  · change exec .exec s = exec (.wrInstraddr s.programmedAddress) s
    exact exec_exec_eq_access (·.programAddress s.programmedAddress) (by simp [State.issues, row]) rfl
      (by simp [State.executorStep, row])
  · change exec .exec s = exec (.wrInstrframe s.requestWord) s
    exact exec_exec_eq_access (·.programFrame s.requestWord) (by simp [State.issues, row]) rfl
      (by simp [State.executorStep, row])
  · exact exec_exec_eq_access (·.settleRead) (by simp [State.issues, row]) rfl (by simp [State.executorStep, row])
  · exact exec_exec_eq_access (·.startTransfer) (by simp [State.issues, row]) rfl (by simp [State.executorStep, row])
  · exact exec_eq_of_effect (by simp [effect, State.executorStep, row])
  · exact exec_eq_of_effect (by simp [effect, State.executorStep, row])
  · exact exec_exec_eq_access (·.pollComplete) (by simp [State.issues, row]) rfl (by simp [State.executorStep, row])
  · exact exec_exec_eq_access (·.clearFlag) (by simp [State.issues, row]) rfl (by simp [State.executorStep, row])
  · exact exec_exec_eq_access (·.enableCache) (by simp [State.issues, row]) rfl (by simp [State.executorStep, row])

/-! ## The step table's invariant, row by row (R25, R45, R46, R109-R117, R121) -/

/-- The executor is busy at every row but `IDLE`. -/
@[simp] theorem Pc.bne_idle {row : Pc} (h : row ≠ .idle) : (row != .idle) = true := bne_iff_ne.mpr h

@[simp] theorem State.quiet_iff : s.quiet = true ↔ s.pending = none ∧ s.inflight = false ∧ s.instrend = false := by
  simp [State.quiet, and_assoc]

@[simp] theorem State.prepared_iff : s.prepared = true ↔ s.req.wellFormed s.cfg = true ∧ s.enable = true ∧
    s.ptr = s.cfg.windowBase + s.req.off ∧ s.bracket = s.req.bracketed s.cfg := by
  simp [State.prepared, and_assoc]

@[simp] theorem State.cacheHeldOff_iff : s.cacheHeldOff = true ↔ s.bracket = false ∨ (s.cen = false ∧ s.csts = false) := by
  simp [State.cacheHeldOff]

/-- The frame `p` is the request's, with `n` bytes moved. -/
def FrameRecord.IsOf (p : FrameRecord) (cfg : Params) (r : Request) (n : Nat) : Prop :=
  p.word = r.encoded cfg ∧ p.opcode = r.instruction.opcode ∧ p.addr = r.off ∧ p.next = r.off.toNat + n ∧ p.data.length = n

@[simp] theorem State.framePending_iff {n : Nat} : s.framePending n = true ↔
    s.word = s.req.encoded s.cfg ∧ ∃ p, s.pending = some p ∧ p.IsOf s.cfg s.req n := by
  cases h : s.pending <;> simp [State.framePending, State.requestWord, FrameRecord.IsOf, h, and_assoc]

/-- One more byte of the request's frame has moved (R115). -/
theorem FrameRecord.IsOf.moved {p : FrameRecord} {cfg : Params} {r : Request} {n : Nat} (b : Byte) (h : p.IsOf cfg r n) :
    ({ p with data := p.data ++ [b], next := p.next + 1 } : FrameRecord).IsOf cfg r (n + 1) := by
  obtain ⟨word, opcode, addr, next, data⟩ := h
  exact ⟨word, opcode, addr, by simp [next, Nat.add_assoc], by simp [data]⟩

/-- The address phase of the request's frame word is the request's (R79). -/
theorem addrEn_encoded (cfg : Params) (r : Request) : addrEn (r.encoded cfg) = r.instruction.hasAddress := by
  unfold addrEn Sys2Proof.Request.encoded encodeFrame
  rw [frameWord_bit _ _ 5 (by decide)]
  rfl

/-- An address that passed WF6 has no bits above the address phase (R73, R90). -/
theorem Request.low_off {cfg : Params} {r : Request} (wf : r.wellFormed cfg = true) : cfg.addrLen.low r.off = r.off := by
  have fits : r.instruction.hasAddress = false ∨ r.address.toNat < 2 ^ cfg.addrLen.bits := by
    have := (List.all_eq_true.mp wf) .wf6 (by simp [Check.inOrder])
    simpa [Sys2Proof.Request.passes] using this
  unfold Sys2Proof.Request.off
  apply BitVec.eq_of_toNat_eq
  rw [AddrLen.low_toNat]
  split
  · next h => exact Nat.mod_eq_of_lt (fits.resolve_left (by simp [h]))
  · rfl

/-- The opcode a frame write samples is the one written to INSTRCTRL (R88, R90). -/
theorem instrByte_setWidth (op : Byte) : (op.setWidth 32 : Word).extractLsb' 0 8 = op := by
  apply BitVec.eq_of_getLsbD_eq
  intro k hk
  simp [BitVec.getLsbD_setWidth, hk]
  omega

/-- The frame the executor latches at `S3_FRAME` is the request's, with no byte moved (R113). -/
theorem State.sampleFrame_isOf (wf : s.req.wellFormed s.cfg = true)
    (opcode : s.instrctrl = s.req.instruction.opcode.setWidth 32) (addr : s.instraddr = s.req.off) :
    (s.sampleFrame s.requestWord).IsOf s.cfg s.req 0 := by
  refine ⟨rfl, ?_, addr, ?_, rfl⟩
  · simp [State.sampleFrame, State.instrByte, opcode, instrByte_setWidth]
  · simp [State.sampleFrame, State.firstOffset, State.requestWord, addrEn_encoded, addr, Request.low_off wf]
    simp +contextual [Sys2Proof.Request.off]

/-- After byte `n` the executor goes on to the next byte, or to the start write (R115, R116). -/
theorem State.copied_pc_at {n : Nat} {bs : List Byte} (row : s.pc = .s5 n) :
    (s.copied bs).pc = if n + 1 < s.req.length.toNat then .s5 (n + 1) else .s6Start := by
  rw [State.copied_eq]
  simp [State.pcAfterCopy, row]

section Rows

/-! Each row's step: what the invariant asks at the next row is what it asks at this one and what the step writes. -/

variable (h : s.coherent = true)
include h

theorem coherent_checked (row : s.pc = .check) (ok : s.req.firstFailing s.cfg = none) (on : s.enable = true) :
    s.stepPc.coherent = true := by
  have wf := Request.firstFailing_none.mp ok
  simpa [State.coherent, row, State.nextPc, wf, on] using h

/-- The bracket is taken where the request asks for it; without it the cache need not be off (R110, R112). -/
theorem coherent_pointer (row : s.pc = .s1) : s.windowPointer.coherent = true := by
  have bracketed : s.req.bracketed s.cfg = (s.cfg.cachePresent && !s.req.optOut) := rfl
  cases taken : s.cfg.cachePresent && !s.req.optOut
  all_goals
    simp [State.coherent, row, State.nextPc, bracketed, taken] at h ⊢
    tauto

theorem coherent_disabled (row : s.pc = .s2Dis) : ((s.writeCmccCtrl 0).advanceAt .s2Dis).coherent = true := by
  simpa [State.coherent, row, State.nextPc, cenOfWrite] using h

/-- `CEN` is 0 since the disable, and the poll has seen `CSTS` = 0: the cache is off (R111). -/
theorem coherent_clean (row : s.pc = .s2Poll) (off : s.csts = false) :
    ((s.log (.regRead .cmccSr 0)).advanceAt .s2Poll).coherent = true := by
  simp [State.coherent, row, State.nextPc, off] at h ⊢
  tauto

theorem coherent_invalidated (row : s.pc = .s2Inv) :
    (({ s with lines := [] }.log .cacheInvalidate).advanceAt .s2Inv).coherent = true := by
  simp [State.coherent, row, State.nextPc] at h ⊢
  tauto

theorem coherent_opcode (row : s.pc = .s3Op) : (({ s with instrctrl := s.req.instruction.opcode.setWidth 32 }.log
    (.regWrite .instrctrl (s.req.instruction.opcode.setWidth 32))).advanceAt .s3Op).coherent = true := by
  simpa [State.coherent, row, State.nextPc] using h

theorem coherent_address (row : s.pc = .s3Addr) : (({ s with instraddr := s.programmedAddress }.log
    (.regWrite .instraddr s.programmedAddress)).advanceAt .s3Addr).coherent = true := by
  simpa [State.coherent, row, State.nextPc, State.programmedAddress] using h

/-- The pending frame is made of what the earlier rows wrote (R90, R113). -/
theorem coherent_frame (row : s.pc = .s3Frame) :
    (({ s with instrframe := s.requestWord, settled := false, pending := some (s.sampleFrame s.requestWord),
               nextSeq := s.nextSeq + 1 }.log (.regWrite .instrframe s.requestWord)).keepWord s.requestWord).coherent = true := by
  have word : s.requestWord = s.req.encoded s.cfg := rfl
  have latched := State.sampleFrame_isOf (s := s)
  simp [State.coherent, row] at h ⊢
  tauto

theorem coherent_settle (row : s.pc = .s4) :
    (({ s with settled := true }.log (.regRead .instrframe s.instrframe)).advanceAt .s4).coherent = true := by
  by_cases more : 0 < s.req.length.toNat
  · simpa [State.coherent, row, State.nextPc, more] using h
  · have none : s.req.length.toNat = 0 := by omega
    simpa [State.coherent, row, State.nextPc, none] using h

/-- The copy of byte `n`, in either direction (R115). -/
theorem coherent_moved {n : Nat} {p : FrameRecord} {b : Byte} {e : Event} {received : List Byte} (row : s.pc = .s5 n)
    (pending : s.pending = some p) : (((s.moved p b).log e).copied received).coherent = true := by
  have next : (((s.moved p b).log e).copied received).pc = if n + 1 < s.req.length.toNat then .s5 (n + 1) else .s6Start :=
    State.copied_pc_at row
  have moved : p.IsOf s.cfg s.req n → _ := FrameRecord.IsOf.moved b
  by_cases more : n + 1 < s.req.length.toNat
  · simp [State.coherent, row, next, more, pending] at h ⊢
    tauto
  · simp [State.coherent, row, next, more, pending] at h ⊢
    rw [show n + 1 = s.req.length.toNat by omega] at moved
    tauto

theorem coherent_perform {p : FrameRecord} (row : s.pc = .s6Start) : (s.performFrame p).coherent = true := by
  simp [State.coherent, row, State.nextPc] at h ⊢
  tauto

theorem coherent_barrier_dsb (row : s.pc = .s6Dsb) : ((s.log (.barrier .dsb)).advanceAt .s6Dsb).coherent = true := by
  simpa [State.coherent, row, State.nextPc] using h

theorem coherent_barrier_isb (row : s.pc = .s6Isb) : ((s.log (.barrier .isb)).advanceAt .s6Isb).coherent = true := by
  simpa [State.coherent, row, State.nextPc] using h

/-- `INSTREND` is set only once the frame has completed (R97, R98). -/
theorem coherent_polled (row : s.pc = .s6Poll) (set : s.instrend = true) (v : Word) :
    ((s.drew.log (.regRead .intflag v)).advanceAt .s6Poll).coherent = true := by
  simp [State.coherent, row, State.nextPc, set] at h ⊢
  tauto

theorem coherent_cleared (row : s.pc = .s6Clr) :
    (({ s with instrend := instrendAfterWrite s.instrend instrendMask }.log
      (.regWrite .intflag instrendMask)).advanceAt .s6Clr).coherent = true := by
  have clears : instrendAfterWrite s.instrend instrendMask = false := by simp [instrendAfterWrite, instrendMask]
  cases taken : s.bracket
  all_goals
    simp [State.coherent, row, State.nextPc, taken, clears] at h ⊢
    tauto

theorem coherent_enabled (row : s.pc = .s7) : ((s.writeCmccCtrl 1).advanceAt .s7).coherent = true := by
  simp [State.coherent, row, State.nextPc] at h ⊢
  tauto

theorem coherent_returned (row : s.pc = .ret) : s.returnRequest.coherent = true := by
  simp [State.coherent, row] at h ⊢
  tauto

/-! The steps of the controller, the cache and the caller come at any row. -/

/-- A frame is in flight only between its start and its completion (R116). -/
theorem coherent_inflight_row (inflight : s.inflight = true) : s.pc = .s6Dsb ∨ s.pc = .s6Isb ∨ s.pc = .s6Poll := by
  cases row : s.pc
  all_goals simp [State.coherent, row, inflight] at h ⊢

theorem coherent_complete {e : Event} (inflight : s.inflight = true) :
    ({ s with instrend := true, inflight := false, pending := none }.log e).coherent = true := by
  rcases coherent_inflight_row h inflight with row | row | row
  all_goals
    simp [State.coherent, row, inflight] at h ⊢
    tauto

/-- `CSTS` follows `CEN`, which is 0 wherever the cache is to be off (R105, R111). -/
theorem coherent_cacheStatus {e : Event} : ({ s with csts := s.cen }.log e).coherent = true := by
  cases row : s.pc
  all_goals
    simp [State.coherent, row] at h ⊢
    grind

theorem coherent_submitted {r : Request} {e : Event} (free : s.busy = false) :
    ({ s with req := r, rx := [], busy := true, pc := .check }.log e).coherent = true := by
  have row : s.pc = .idle := by
    simp [State.coherent, free] at h
    obtain ⟨⟨-, row⟩, -⟩ := h
    exact row
  simp [State.coherent, row] at h ⊢
  tauto

end Rows

/-- A step that is an access or the executor's own, taken by an agent, is the executor's. -/
theorem Instr.executor_of_ofAgent {j : Instr} {P : Prop} (agent : i.ofAgent = true) (other : j.ofAgent = false)
    (own : i = j ∨ (i = .exec ∧ P)) : P :=
  (own.resolve_left fun same => by simp [same, other] at agent).2

theorem Instr.isAccess_of_ofAgent (agent : i.ofAgent = true) : i.isAccess = false := by
  cases i <;> simp [Instr.ofAgent, Instr.isAccess] at agent ⊢

theorem Change.keeps_coherent (c : Change s i t) (agent : i.ofAgent = true) (h : s.coherent = true) : t.coherent = true := by
  have executor {j : Instr} {P : Prop} (own : i = j ∨ (i = .exec ∧ P)) (other : j.ofAgent = false) : P :=
    Instr.executor_of_ofAgent agent other own
  cases c with
  | held => exact h
  | raised => exact h
  | clock => exact h
  | encoded => exact h
  | refused access => simp [Instr.isAccess_of_ofAgent agent] at access
  | opcode op own =>
    obtain ⟨row, rfl⟩ := executor own rfl
    exact coherent_opcode h row
  | address a own =>
    obtain ⟨row, rfl⟩ := executor own rfl
    exact coherent_address h row
  | frame w own =>
    obtain ⟨row, rfl⟩ := executor own rfl
    exact coherent_frame h row
  | settle own => exact coherent_settle h (executor own rfl)
  | read p o own pending =>
    rcases own with ⟨o', rfl, -⟩ | ⟨-, -, n, row, -⟩
    · cases agent
    · exact coherent_moved h row pending
  | write p o v own pending =>
    rcases own with ⟨o', rfl, -⟩ | ⟨-, -, n, row, -⟩
    · cases agent
    · exact coherent_moved h row pending
  | perform p own =>
    rcases own with rfl | ⟨f, ⟨rfl, -⟩ | ⟨rfl, -⟩ | ⟨rfl, -⟩ | ⟨rfl, -⟩⟩ | ⟨-, row⟩
    iterate 5 cases agent
    exact coherent_perform h row
  | barrier k row own =>
    rcases own with ⟨rfl, rfl, own⟩ | ⟨rfl, rfl, own⟩
    · exact coherent_barrier_dsb h (executor own rfl)
    · exact coherent_barrier_isb h (executor own rfl)
  | complete p _ _ inflight => exact coherent_complete h inflight
  | polled own set => exact coherent_polled h (executor own rfl) set _
  | cleared own => exact coherent_cleared h (executor own rfl)
  | disabled own => exact coherent_disabled h (executor own rfl)
  | enabled own => exact coherent_enabled h (executor own rfl)
  | clean own off => exact coherent_clean h (executor own rfl) off
  | invalidated own => exact coherent_invalidated h (executor own rfl)
  | cacheStatus => exact coherent_cacheStatus h
  | checked _ row ok on => exact coherent_checked h row ok on
  | pointer _ row => exact coherent_pointer h row
  | returned _ row => exact coherent_returned h row
  | submitted r _ _ free => exact coherent_submitted h free

/-- Settles O54: each change that an agent can make leads from its row of the step table to the next one. -/
theorem coherentKeptByAgents : Obligations.CoherentKeptByAgents :=
  fun _ _ _ h agent step => (Change.of_exec step).2.keeps_coherent agent h

end Sys2Proof.Machine

/-! Proofs about the memory (20_memory.md): which accesses are the executor's, and what the bracket does to the cache. -/

namespace Sys2Proof.Machine

variable {s t : State} {i : Instr}

/-! ## Accesses that the executor does not make (R45, R113, R115, R121, R140) -/

/-- Every access goes through the one gate, which asks whether the executor issues it (R140). -/
theorem effect_eq_access (access : i.isAccess = true) : ∃ f, effect i s = s.access (s.issues i) f := by
  cases i with
  | runCommand | readCommand | writeCommand | writeCommandLen0 | eraseCommand | readMemory | writeMemory | dsb | isb
  | complete | cacheSettle | encode | exec | submit | setclk => cases access
  | _ => exact ⟨_, by rw [effect]⟩

/-- While a request is in progress, an access that the executor does not issue only sets the refused mark (R140, Log 13). -/
theorem exec_eq_refused (live : s.faults = []) (busy : s.busy = true) (access : i.isAccess = true)
    (other : s.issues i = false) : exec i s = .next { s with refused := true } := by
  obtain ⟨f, gate⟩ := effect_eq_access (s := s) access
  rw [exec_live live, gate, other, State.access_other f busy]

theorem State.issues_winRd {o : Word} : s.issues (.winRd o) = true ↔
    ∃ n, s.pc = .s5 n ∧ writeBit s.word = false ∧ o.toNat = s.copyOffset n := by
  cases row : s.pc <;> simp [State.issues, row]

theorem State.issues_winWr {o : Word} {v : Byte} : s.issues (.winWr o v) = true ↔
    ∃ n, s.pc = .s5 n ∧ writeBit s.word = true ∧ o.toNat = s.copyOffset n ∧ s.req.buffer[n]? = some v := by
  cases row : s.pc <;> simp [State.issues, row, and_assoc]

/-- The executor makes an access at its row of the step table only (R25, R45). -/
theorem ownRow_of_issues (own : s.issues i = true) : ownRow i s.pc = true := by
  cases i with
  | winRd o =>
    obtain ⟨n, row, -⟩ := State.issues_winRd.mp own
    simp [ownRow, row]
  | winWr o v =>
    obtain ⟨n, row, -⟩ := State.issues_winWr.mp own
    simp [ownRow, row]
  | _ => simp_all [State.issues, ownRow]

/-- Settles O44: the gate of every access asks for its row and for the request's operand, and each clause denies one. -/
theorem accessOutOfRowIsRefused : Obligations.AccessOutOfRowIsRefused := by
  intro s i live busy access
  dsimp only
  intro other
  refine exec_eq_refused live busy access (Bool.eq_false_iff.mpr fun own => ?_)
  rcases other with outOfRow | ⟨op, rfl, differs⟩ | ⟨a, rfl, differs⟩ | ⟨w, rfl, differs⟩ | ⟨f, frame⟩
    | ⟨o, n, rfl, row, differs⟩ | ⟨o, v, n, rfl, row, differs⟩
  · simp [ownRow_of_issues own] at outOfRow
  · exact differs (eq_of_beq (Bool.and_eq_true_iff.mp own).2)
  · exact differs (eq_of_beq (Bool.and_eq_true_iff.mp own).2)
  · exact differs (eq_of_beq (Bool.and_eq_true_iff.mp own).2)
  · rcases frame with ⟨rfl, differs⟩ | ⟨rfl, differs⟩ | ⟨rfl, differs⟩ | ⟨rfl, differs⟩
    all_goals exact differs (eq_of_beq (Bool.and_eq_true_iff.mp own).2)
  · obtain ⟨m, row', read, place⟩ := State.issues_winRd.mp own
    obtain rfl : m = n := by simpa [row'] using row
    rcases differs with write | elsewhere
    · exact Bool.noConfusion (write.symm.trans read)
    · exact elsewhere place
  · obtain ⟨m, row', write, place, byte⟩ := State.issues_winWr.mp own
    obtain rfl : m = n := by simpa [row'] using row
    rcases differs with read | elsewhere | otherByte
    · exact Bool.noConfusion (read.symm.trans write)
    · exact elsewhere place
    · exact otherByte byte

/-! ## The copy of a byte at its row (R73, R92, R93, R115) -/

/-- The data phase of the request's frame word is the request's (R79). -/
theorem dataEn_encoded (cfg : Params) (r : Request) : dataEn (r.encoded cfg) = r.instruction.hasData := by
  unfold dataEn Sys2Proof.Request.encoded encodeFrame
  rw [frameWord_bit _ _ 7 (by decide)]
  rfl

/-- The write bit of the request's frame word is that of its effective type (R81, R86). -/
theorem writeBit_encoded (cfg : Params) (r : Request) : writeBit (r.encoded cfg) = r.effectiveType.getLsbD 1 := by
  unfold writeBit Sys2Proof.Request.encoded encodeFrame
  rw [frameWord_bit _ _ 13 (by decide)]
  rfl

section WellFormed

variable {p : Params} {r : Request} {n : Nat} (wf : r.wellFormed p = true) (inside : n < r.length.toNat)
include wf inside

/-- A request that moves bytes has a data phase (R73, WF4). -/
theorem Request.hasData_of_wellFormed : r.instruction.hasData = true := by
  have wf4 : r.instruction.hasData = true ∨ r.length = 0 := by
    simpa [Sys2Proof.Request.passes] using List.all_eq_true.mp wf .wf4 (by simp [Check.inOrder])
  exact wf4.resolve_right fun none => by simp [none] at inside

/-- A request that moves bytes has a buffer of that many bytes (R73, WF5). -/
theorem Request.lt_buffer_of_wellFormed : n < r.buffer.length := by
  have wf5 := List.all_eq_true.mp wf .wf5 (by simp [Check.inOrder])
  by_cases role : r.role = .noBuffer
  · have none : r.length = 0 ∧ r.buffer = [] := by simpa [Sys2Proof.Request.passes, role] using wf5
    simp [none] at inside
  · have count : r.buffer.length = r.length.toNat := by simpa [Sys2Proof.Request.passes, role] using wf5
    omega

end WellFormed

/-- A window read that passes its checks moves the flash's byte (R92). -/
theorem State.windowRead_of_passes {p : FrameRecord} {o : Nat} (pending : s.pending = some p)
    (ok : s.windowFault p o false = none) : s.windowRead o =
      ((s.moved p (s.flashByte p.seq p.data.length)).log (.winRead o (s.flashByte p.seq p.data.length))).copied
        [s.flashByte p.seq p.data.length] := by
  simp only [State.windowRead, pending, ok]

/-- A window write that passes its checks moves its byte (R93). -/
theorem State.windowWrite_of_passes {p : FrameRecord} {o : Nat} {v : Byte} (pending : s.pending = some p)
    (ok : s.windowFault p o true = none) : s.windowWrite o v = ((s.moved p v).log (.winWrite o v)).copied [] := by
  simp only [State.windowWrite, pending, ok]

section Copy

variable {n : Nat} (h : s.coherent = true) (row : s.pc = .s5 n)
include h row

/-- What the rows before a copy have established of the request and its frame (R109, R110, R113, R114). -/
theorem coherent_copy_row : s.req.wellFormed s.cfg = true ∧ n < s.req.length.toNat ∧ s.word = s.req.encoded s.cfg ∧
    s.ptr = s.cfg.windowBase + s.req.off ∧ s.settled = true ∧ s.inflight = false ∧
    ∃ p, s.pending = some p ∧ p.IsOf s.cfg s.req n := by
  simp [State.coherent, row] at h
  tauto

/-- Inside the bracket the cache is off at every copy row (R49, R111). -/
theorem coherent_copy_cacheOff (bracket : s.bracket = true) : s.cen = false ∧ s.csts = false := by
  simp [State.coherent, row, bracket] at h
  tauto

/-- Byte `n` of the request is copied at the offset after the bytes moved so far (R110, R115). -/
theorem coherent_copyOffset : s.copyOffset n = s.req.off.toNat + n := by
  obtain ⟨-, -, -, ptr, -⟩ := coherent_copy_row h row
  rw [State.copyOffset, ptr, BitVec.add_comm, BitVec.add_sub_cancel]

/-- With the cache off the copy passes every check of the window access (R92, R93, R115). -/
theorem coherent_copy_passes {p : FrameRecord} (pending : s.pending = some p) (off : s.csts = false) :
    p.data.length = n ∧ s.windowFault p (s.copyOffset n) (writeBit s.word) = none := by
  obtain ⟨wf, inside, word, -, settled, inflight, q, pending', sameWord, -, -, next, moved⟩ := coherent_copy_row h row
  obtain rfl : q = p := by simpa [pending'] using pending
  have hasData : dataEn q.word = true := by
    rw [sameWord, dataEn_encoded, Request.hasData_of_wellFormed wf inside]
  exact ⟨moved, State.windowFault_none.mpr
    ⟨inflight, hasData, settled, by rw [sameWord, word], by rw [next, coherent_copyOffset h row], by simp [off]⟩⟩

/-- With the cache off, EXEC at a copy row moves a byte of the request: the buffer's, or the flash's (R115). -/
theorem coherent_copy_moves (live : s.faults = []) (off : s.csts = false) :
    ∃ (t : State) (p : FrameRecord) (b : Byte), exec .exec s = .next t ∧ s.pending = some p
      ∧ t.pending = some { p with data := p.data ++ [b], next := p.next + 1 } ∧ t.faults = []
      ∧ ((s.req.effectiveType.getLsbD 1 = true ∧ s.req.buffer[n]? = some b)
        ∨ (s.req.effectiveType.getLsbD 1 = false ∧ b = s.flashByte p.seq n ∧ t.rx = s.rx ++ [b])) := by
  obtain ⟨wf, inside, word, -, -, -, p, pending, -⟩ := coherent_copy_row h row
  obtain ⟨moved, passes⟩ := coherent_copy_passes h row pending off
  have copies : effect .exec s = s.copyByte n := by simp [effect, State.executorStep, row]
  rw [exec_live live, copies, ← writeBit_encoded s.cfg, ← word]
  rcases s.copyByte_cases n with ⟨write, step⟩ | ⟨read, step⟩
  · rw [write] at passes
    have byte : s.req.buffer[n]? = some (s.bufferByte n) := by
      simp [State.bufferByte, Request.lt_buffer_of_wellFormed wf inside]
    rw [step, State.windowWrite_of_passes pending passes]
    exact ⟨_, p, s.bufferByte n, rfl, pending, by simp [State.moved], by simp [live], .inl ⟨write, byte⟩⟩
  · rw [read] at passes
    rw [step, State.windowRead_of_passes pending passes, moved]
    refine ⟨_, p, s.flashByte p.seq n, rfl, pending, by simp [State.moved], by simp [live], .inr ⟨read, rfl, ?_⟩⟩
    simp [State.copied_rx, State.atCopy, row]

end Copy

/-! ## The bracket and the cache (R30, R49, R111) -/

/-- The cache is off when the executor comes to the invalidate (R111). -/
theorem coherent_invalidate_cacheOff (h : s.coherent = true) (row : s.pc = .s2Inv) : s.csts = false := by
  simp [State.coherent, row] at h
  grind

/-- No change adds a line: the invalidate empties the set, and every other leaves it (R30). -/
theorem Change.lines_eq (c : Change s i t) : t.lines = s.lines ∨ t.lines = [] := by
  cases c with
  | invalidated => right; simp
  | _ => left; simp

theorem Change.lines_subset (c : Change s i t) : t.lines ⊆ s.lines := by
  rcases c.lines_eq with same | empty
  · simp [same]
  · simp [empty]

/-- Settles O56: the invalidate and the copies find the cache off, and no change adds a line. -/
theorem bracketKeepsCacheOff : Obligations.BracketKeepsCacheOff := by
  refine ⟨fun s h live row => ?_, fun s n h live row bracket => ?_,
    fun s t i step o held => (Change.of_exec step).2.lines_subset held⟩
  · have invalidates : effect .exec s = s.invalidateCache := by simp [effect, State.executorStep, row]
    rcases s.invalidateCache_cases with ⟨on, -⟩ | ⟨-, emptied⟩
    · simp [coherent_invalidate_cacheOff h row] at on
    · rw [exec_live live, invalidates, emptied]
      exact ⟨_, rfl, by simp, by simp [live]⟩
  · obtain ⟨cen, csts⟩ := coherent_copy_cacheOff h row bracket
    obtain ⟨t, p, b, step, pending, moved, faults, byte⟩ := coherent_copy_moves h row live csts
    exact ⟨t, p, b, step, csts, cen, pending, moved, faults, byte⟩

end Sys2Proof.Machine

/-! Proofs about the encoding (30_encoding.md): frame words and their fields, the rows' words, the image of ENCODE, and the
bytes of instructions read back. -/

namespace Sys2Proof

/-! ## Frame words and their fields (R52, R61, R68) -/

/-- Bits 31:21 of a frame word are no field's. -/
theorem frameWord_high (t : BitVec 2) (f : FrameFields) : (frameWord t f).extractLsb' 21 11 = 0 := by
  apply BitVec.eq_of_getLsbD_eq
  intro i hi
  rw [BitVec.getLsbD_extractLsb', frameWord_bit _ _ _ (by omega)]
  simp (disch := omega) only [if_neg]
  simp

/-- A frame word's one reserved encoding is `WIDTH` = 7 (R61). -/
theorem reservedWord_frameWord_eq (t : BitVec 2) (f : FrameFields) : reservedWord (frameWord t f) = (f.width == 7) := by
  have width : (frameWord t f).extractLsb' 0 3 = f.width := congrArg FrameFields.width (frameFields_frameWord t f)
  rw [reservedWord, width, frameWord_high, frameWord_bit _ _ 3 (by decide), frameWord_bit _ _ 11 (by decide)]
  simp

/-- Settles O10: the fields decode to what the word was made of, and no field reaches bits 3, 11 and 31:21. -/
theorem frameWordGivesFieldsBack : Obligations.FrameWordGivesFieldsBack := by
  intro t f
  have fields := frameFields_frameWord t f
  have addrLen : (frameWord t f).getLsbD 10 = (f.addrLen == .a32) := by
    rw [frameWord_bit _ _ _ (by decide)]
    cases f.addrLen <;> rfl
  have decoded : decodeFrame (frameWord t f) = { tfrType := t, fields := f, reserved := f.width == 7 } := by
    rw [decodeFrame, tfrType_frameWord, fields, reservedWord_frameWord_eq]
  exact ⟨congrArg FrameFields.width fields, frameWord_bit t f 3 (by decide), congrArg FrameFields.instrEn fields,
    congrArg FrameFields.addrEn fields, congrArg FrameFields.optEn fields, congrArg FrameFields.dataEn fields,
    congrArg FrameFields.optLen fields, addrLen, frameWord_bit t f 11 (by decide), tfrType_frameWord t f,
    congrArg FrameFields.crMode fields, congrArg FrameFields.ddrEn fields, congrArg FrameFields.dummy fields,
    frameWord_high t f, decoded⟩

/-- A word without a reserved bit is the frame word of its type and fields. -/
theorem frameWord_fields {w : Word} (h3 : w.getLsbD 3 = false) (h11 : w.getLsbD 11 = false) (high : w.extractLsb' 21 11 = 0) :
    frameWord (tfrType w) (frameFields w) = w := by
  have highBit (i : Nat) (low : 21 ≤ i) (hi : i < 32) : w.getLsbD i = false := by
    have bit : (w.extractLsb' 21 11).getLsbD (i - 21) = false := by simp [high]
    simpa [BitVec.getLsbD_extractLsb', show i - 21 < 11 by omega, Nat.add_sub_cancel' low] using bit
  apply BitVec.eq_of_getLsbD_eq
  intro i hi
  rw [frameWord_bit _ _ _ hi]
  rcases Nat.lt_or_ge i 21 with low | low
  · have w3 : w[3] = false := h3
    have w11 : w[11] = false := h11
    interval_cases i <;> simp [tfrType, frameFields, w3, w11]
  · rw [highBit i low hi]
    simp (disch := omega) only [if_neg]

/-- Settles O11: what DECODE returns are the word's type and fields. -/
theorem fieldsGiveFrameWordBack : Obligations.FieldsGiveFrameWordBack :=
  fun _ h3 h11 high => frameWord_fields h3 h11 high

/-! ## Rows as masks and matches (R67) -/

/-- The mask that keeps the `len` bits of a word from bit `start`. -/
def fieldMask (start len : Nat) : Word := (BitVec.allOnes len).setWidth 32 <<< start

/-- A word matches a field's value on its mask exactly when the field holds the value. -/
theorem and_fieldMask_eq {start len : Nat} (h : start + len ≤ 32) (w : Word) (v : BitVec len) :
    w &&& fieldMask start len = v.setWidth 32 <<< start ↔ w.extractLsb' start len = v := by
  constructor
  · intro masked
    apply BitVec.eq_of_getLsbD_eq
    intro i hi
    have bit := congrArg (·.getLsbD (start + i)) masked
    simpa [fieldMask, BitVec.getLsbD_extractLsb', hi, show start + i < 32 by omega, show i < 32 by omega] using bit
  · rintro rfl
    apply BitVec.eq_of_getLsbD_eq
    intro i hi
    rcases Nat.lt_or_ge i start with low | low
    · simp [fieldMask, low]
    · by_cases top : i - start < len <;> simp [fieldMask, hi, top, Nat.not_lt.mpr low, Nat.add_sub_cancel' low]

/-- The FRAME rows' mask is `TFRTYPE`'s (R67 (1)). -/
theorem isFrame_eq_mask (t : BitVec 2) (w : Word) :
    isFrame t w = (decide (w &&& (0x00003000 : Word) = t.setWidth 32 <<< 12) && !reservedWord w) := by
  have mask : (0x00003000 : Word) = fieldMask 12 2 := rfl
  have matched : (tfrType w == t) = decide (w &&& (0x00003000 : Word) = t.setWidth 32 <<< 12) := by
    rw [mask, decide_eq_decide.mpr (and_fieldMask_eq (by decide) w t)]
    rfl
  rw [isFrame, matched]

/-- The default window's 2^24 addresses are those of one top byte (R7, R36). -/
theorem inWindow_default (w : Word) : Params.default.inWindow w = decide (w &&& 0xFF000000 = 0x04000000) := by
  have mask : w &&& 0xFF000000 = 0x04000000 ↔ w.extractLsb' 24 8 = (4 : BitVec 8) :=
    and_fieldMask_eq (start := 24) (len := 8) (by decide) w 4
  have top : w.extractLsb' 24 8 = (4 : BitVec 8) ↔ w.toNat / 2 ^ 24 = 4 := by
    rw [← BitVec.toNat_inj, BitVec.extractLsb'_toNat, Nat.shiftRight_eq_div_pow]
    simp
    omega
  rw [Bool.eq_iff_iff, decide_eq_true_iff, mask, top]
  simp [Params.inWindow, Params.default]
  omega

/-- On all bits a word matches itself only. -/
theorem and_allBits_eq (w v : Word) : decide (w = v) = decide (w &&& 0xFFFFFFFF = v) := by
  rw [show (0xFFFFFFFF : Word) = BitVec.allOnes 32 from rfl, BitVec.and_allOnes]

/-- Settles O9: a FRAME row is its field's mask, a window row the top byte's, and the rest is each row's own pattern. -/
theorem microOpRowsMatch : Obligations.MicroOpRowsMatch := by
  intro w
  refine ⟨⟨isFrame_eq_mask 0 w, isFrame_eq_mask 1 w, isFrame_eq_mask 2 w, isFrame_eq_mask 3 w⟩,
    ⟨rfl, rfl, rfl, rfl, rfl, rfl, rfl⟩, ?_, ?_, by decide⟩
  · have register (v : Word) := and_allBits_eq w v
    exact ⟨register _, register _, register _, register _, inWindow_default w, inWindow_default w, register _, register _,
      register _, register _, register _, register _, register _⟩
  · intro r operation
    fin_cases operation <;> exact ⟨and_allBits_eq w 0, by decide⟩

/-! ## The image of ENCODE (R63) -/

/-- Every width but the reserved one is a member's code (R54). -/
theorem exists_ioWidth_code {c : BitVec 3} (h : c ≠ 7) : ∃ x : IoWidth, x.code = c := by
  have all : ∀ c : BitVec 3, c ≠ 7 →
      c ∈ [IoWidth.single, .dual, .quad, .dualIO, .quadIO, .dualCmd, .quadCmd].map IoWidth.code := by decide
  obtain ⟨x, -, hx⟩ := List.mem_map.mp (all c h)
  exact ⟨x, hx⟩

/-- Every transfer type is a direction's code (R55). -/
theorem exists_direction_code (t : BitVec 2) : ∃ x : Direction, x.code = t := by
  have all : ∀ t : BitVec 2, t ∈ [Direction.read, .readMemory, .write, .writeMemory].map Direction.code := by decide
  obtain ⟨x, -, hx⟩ := List.mem_map.mp (all t)
  exact ⟨x, hx⟩

/-- The conditions of R63 on a word. -/
theorem inImage_iff {a : AddrLen} {w : Word} : inImage a w = true ↔
    w.extractLsb' 21 11 = 0 ∧ w.getLsbD 15 = false ∧ w.getLsbD 14 = false ∧ w.getLsbD 11 = false
      ∧ w.getLsbD 10 = (a == .a32) ∧ w.extractLsb' 8 2 = 0 ∧ w.getLsbD 6 = false ∧ w.getLsbD 4 = true
      ∧ w.getLsbD 3 = false ∧ w.extractLsb' 0 3 ≠ 7 := by
  have bit : a.bit = (a == .a32) := by cases a <;> rfl
  simp [inImage, bit, and_assoc]

/-- Every word ENCODE gives meets the conditions (R74). -/
theorem inImage_encodeFrame (a : AddrLen) (d : Descriptor) (txPresent : Bool) (length : Word) :
    inImage a (encodeFrame a d txPresent length) = true := by
  obtain ⟨width, h3, h4, -, h6, -, optLen, h10, h11, -, h14, h15, -, high, -⟩ :=
    frameWordGivesFieldsBack (effectiveType d.direction txPresent length) (encodeFields a d)
  exact inImage_iff.mpr ⟨high, h15, h14, h11, h10, optLen, h6, h4, h3, width ▸ d.ioWidth.code_ne_seven⟩

/-- The descriptor of a word's address, data and dummy fields and a width and direction for its codes. -/
def wordDescriptor (w : Word) (ioWidth : IoWidth) (direction : Direction) : Descriptor where
  opcode      := 0
  hasAddress  := w.getLsbD 5
  hasData     := w.getLsbD 7
  dummyCycles := (w.extractLsb' 16 5).toNat
  ioWidth     := ioWidth
  direction   := direction

/-- A word that meets the conditions is ENCODE of the descriptor its fields make, with nothing to transmit. -/
theorem exists_encodeFrame {a : AddrLen} {w : Word} (h : inImage a w = true) :
    ∃ (d : Descriptor) (txPresent : Bool) (length : Word), d.dummyCycles ≤ 31 ∧ encodeFrame a d txPresent length = w := by
  obtain ⟨high, h15, h14, h11, h10, optLen, h6, h4, h3, width⟩ := inImage_iff.mp h
  obtain ⟨ioWidth, hWidth⟩ := exists_ioWidth_code width
  obtain ⟨direction, hType⟩ := exists_direction_code (tfrType w)
  have addrLen : AddrLen.ofBit (w.getLsbD 10) = a := by rw [h10]; cases a <;> rfl
  have fields : encodeFields a (wordDescriptor w ioWidth direction) = frameFields w := by
    simp only [encodeFields, frameFields, wordDescriptor, hWidth, h4, h6, h14, h15, optLen, addrLen, BitVec.ofNat_toNat,
      BitVec.setWidth_eq]
  refine ⟨wordDescriptor w ioWidth direction, false, 0, Nat.le_of_lt_succ (w.extractLsb' 16 5).isLt, ?_⟩
  calc encodeFrame a (wordDescriptor w ioWidth direction) false 0
      = frameWord direction.code (encodeFields a (wordDescriptor w ioWidth direction)) := rfl
    _ = frameWord (tfrType w) (frameFields w) := by rw [fields, hType]
    _ = w := frameWord_fields h3 h11 high

/-- The image of ENCODE is the words that meet the conditions of R63. -/
theorem inImage_iff_exists {a : AddrLen} {w : Word} : inImage a w = true ↔
    ∃ (d : Descriptor) (txPresent : Bool) (length : Word), d.dummyCycles ≤ 31 ∧ encodeFrame a d txPresent length = w := by
  constructor
  · exact exists_encodeFrame
  · rintro ⟨d, txPresent, length, -, rfl⟩
    exact inImage_encodeFrame a d txPresent length

open Machine in
/-- A frame write that may be made takes every word without a reserved encoding (R90). -/
theorem exec_wrInstrframe_accepts {s : State} {w : Word} (ok : reservedWord w = false) (live : s.faults = [])
    (own : s.mayWrite .s3Frame w (s.req.encoded s.cfg)) (free : s.pending = none) (idle : s.inflight = false) :
    ∃ t, Machine.exec (.wrInstrframe w) s = .next t ∧ t.instrframe = w ∧ t.faults = [] := by
  have writes : effect (.wrInstrframe w) s = s.programFrame w := State.access_mayWrite (·.programFrame w) own
  have notHeld : s.frameHeld = false := State.frameHeld_false.mpr ⟨idle, free⟩
  rcases s.programFrame_cases w with ⟨held, -⟩ | ⟨-, reserved, -⟩ | ⟨-, -, written⟩
  · simp [notHeld] at held
  · simp [ok] at reserved
  · rw [exec_live live, writes, written]
    exact ⟨_, rfl, by simp, by simp [live]⟩

/-- Settles O15: both forms of the conditions are the image, and the frame write asks only for no reserved encoding. -/
theorem encodeImage : Obligations.EncodeImage := fun _ _ =>
  ⟨inImage_iff_exists.symm.trans inImage_iff, fun ok _ live own free idle => exec_wrInstrframe_accepts ok live own free idle,
    inImage_iff_exists⟩

/-! ## Operands read back from their bytes (Log 8, Log 10) -/

section Operands

variable (rest : List Byte)

/-- Four bytes, the lowest first, make the word they are the bytes of (Log 10). -/
theorem wordOfBytes_bytes (w : Word) :
    wordOfBytes (w.extractLsb' 0 8) (w.extractLsb' 8 8) (w.extractLsb' 16 8) (w.extractLsb' 24 8) = w := by
  apply BitVec.eq_of_getLsbD_eq
  intro i hi
  simp only [wordOfBytes, BitVec.getLsbD_append, BitVec.getLsbD_extractLsb']
  interval_cases i <;> rfl

@[simp] theorem chain_ok {α β : Type} (a : α) (k : α → List Byte → Except Reject β) :
    chain (.ok (a, rest)) k = k a rest := rfl

@[simp] theorem takeByte_cons (b : Byte) : takeByte (b :: rest) = .ok (b, rest) := rfl

@[simp] theorem takeBool_boolByte (b : Bool) : takeBool (boolByte b :: rest) = .ok (b, rest) := by cases b <;> rfl

@[simp] theorem takeWord_wordBytes (w : Word) : takeWord (wordBytes w ++ rest) = .ok (w, rest) := by
  simp [wordBytes, takeWord, wordOfBytes_bytes]

@[simp] theorem takeBytes_append {n : Nat} (bytes : List Byte) (h : n = bytes.length) :
    takeBytes n (bytes ++ rest) = .ok (bytes, rest) := by
  simp [takeBytes, h]

@[simp] theorem takeWidth_code (x : IoWidth) : takeWidth (x.code.setWidth 8 :: rest) = .ok (x, rest) := by cases x <;> rfl

@[simp] theorem takeDirection_code (x : Direction) : takeDirection (x.code.setWidth 8 :: rest) = .ok (x, rest) := by
  cases x <;> rfl

@[simp] theorem takeRole_code (x : Role) : takeRole (x.code :: rest) = .ok (x, rest) := by cases x <;> rfl

@[simp] theorem takeDescriptor_bytes (d : Descriptor) : takeDescriptor (d.bytes ++ rest) = .ok (d, rest) := by
  simp [takeDescriptor, Descriptor.bytes, takeNat_natBytes]

@[simp] theorem takeRequest_bytes (r : Request) : takeRequest (r.bytes ++ rest) = .ok (r, rest) := by
  simp [takeRequest, Request.bytes, takeNat_natBytes]

end Operands

/-- A row's operands are read back from the bytes of a well-formed instruction and its table word. -/
theorem takeOperands_operandBytes {p : Params} {i : Instr} (h : i.wellFormed p = true) (rest : List Byte) :
    takeOperands p i.row (i.tableWord p) (i.operandBytes ++ rest) = .ok (i, rest) := by
  cases i with
  | frameRead f => simp [takeOperands, Instr.row, Instr.tableWord, Instr.operandBytes, frameFields_frameWord]
  | frameReadMemory f => simp [takeOperands, Instr.row, Instr.tableWord, Instr.operandBytes, frameFields_frameWord]
  | frameWrite f => simp [takeOperands, Instr.row, Instr.tableWord, Instr.operandBytes, frameFields_frameWord]
  | frameWriteMemory f => simp [takeOperands, Instr.row, Instr.tableWord, Instr.operandBytes, frameFields_frameWord]
  | writeCommand op bytes nocache =>
    obtain ⟨nonempty, fits⟩ : bytes ≠ [] ∧ bytes.length < 2 ^ 32 := by simpa [Instr.wellFormed, fits32] using h
    have pos : 0 < bytes.length := List.length_pos_of_ne_nil nonempty
    simp (disch := omega) [takeOperands, Instr.row, Instr.operandBytes]
  | writeMemory address bytes nocache =>
    have fits : bytes.length < 2 ^ 32 := by simpa [Instr.wellFormed, fits32] using h
    simp (disch := omega) [takeOperands, Instr.row, Instr.operandBytes]
  | wrInstrctrl op =>
    simp [takeOperands, Instr.row, Instr.operandBytes, Machine.reservedCtrl_setWidth, Machine.instrByte_setWidth]
  | winRd o => simp [takeOperands, Instr.row, Instr.tableWord, Instr.operandBytes]
  | winWr o v => simp [takeOperands, Instr.row, Instr.tableWord, Instr.operandBytes]
  | setclk hz => simp [takeOperands, Instr.row, Instr.operandBytes, takeNat_natBytes]
  | _ => simp [takeOperands, Instr.row, Instr.operandBytes]

/-- A row's number and one of its words select it (Log 9). -/
theorem rowOf_number {p : Params} {r : Row} {w : Word} (h : r.matchesWord p w = true) : rowOf p w r.number = .ok r := by
  obtain ⟨selects, nonzero, -⟩ := r.number_select
  rw [rowOf, if_neg nonzero, selects]
  exact if_pos h

open Laws.RowWord in
/-- Every instruction's word and row number select its row: the laws of Laws.RowWord together. -/
theorem rowWord_statement : (i : Instr) → Statement i
  | .frameRead f => frameRead f
  | .frameReadMemory f => frameReadMemory f
  | .frameWrite f => frameWrite f
  | .frameWriteMemory f => frameWriteMemory f
  | .runCommand op nocache => runCommand op nocache
  | .readCommand op len nocache => readCommand op len nocache
  | .writeCommand op bytes nocache => writeCommand op bytes nocache
  | .writeCommandLen0 op nocache => writeCommandLen0 op nocache
  | .eraseCommand op a nocache => eraseCommand op a nocache
  | .readMemory a len nocache => readMemory a len nocache
  | .writeMemory a bytes nocache => writeMemory a bytes nocache
  | .wrInstrctrl op => wrInstrctrl op
  | .wrInstraddr a => wrInstraddr a
  | .wrInstrframe w => wrInstrframe w
  | .rdInstrframe => rdInstrframe
  | .winRd o => winRd o
  | .winWr o v => winWr o v
  | .start => start
  | .rdIntflag => rdIntflag
  | .clrIntflag => clrIntflag
  | .cacheDisable => cacheDisable
  | .cacheEnable => cacheEnable
  | .rdCmccSr => rdCmccSr
  | .cacheInvalidate => cacheInvalidate
  | .dsb => dsb
  | .isb => isb
  | .complete => complete
  | .cacheSettle => cacheSettle
  | .encode d txPresent length => Laws.RowWord.encode d txPresent length
  | .exec => exec
  | .submit r => submit r
  | .setclk hz => setclk hz

/-- The word an instruction's encoding begins with is one of its row's words (R67). -/
theorem matchesWord_tableWord {p : Params} {i : Instr} (hp : p.wf = true) (h : i.wellFormed p = true) :
    i.row.matchesWord p (i.tableWord p) = true :=
  (rowWord_statement i p hp h).1

/-- A word's bytes and a row's number, which is not a foreign access's, begin an instruction. -/
theorem decode_wordBytes (p : Params) (w : Word) {number : Byte} (h : number ≠ 0xFF) (bs : List Byte) :
    decode p (wordBytes w ++ number :: bs) = decodeInstr p w number bs := by
  change (if number = 0xFF then _ else decodeInstr p (wordOfBytes _ _ _ _) number bs) = _
  rw [if_neg h, wordOfBytes_bytes]

/-- Settles O7: the word's bytes give the word, the number its row, and the row reads the operands back. -/
theorem decodeAfterEncode : Obligations.DecodeAfterEncode := by
  intro p i rest hp h
  obtain ⟨-, -, own⟩ := i.row.number_select
  calc decode p (encode p i ++ rest)
      = decode p (wordBytes (i.tableWord p) ++ i.row.number :: (i.operandBytes ++ rest)) := by simp [encode]
    _ = decodeInstr p (i.tableWord p) i.row.number (i.operandBytes ++ rest) := decode_wordBytes p _ own _
    _ = .instr i rest := by
      simp [decodeInstr, rowOf_number (matchesWord_tableWord hp h), takeOperands_operandBytes h, h]

/-! ## What the decoder accepts (R61, R67, Log 8) -/

/-- Where a reading of `bs` succeeds, its value is as `P` says and an end of `bs` is left. -/
def ReadsEnd {α : Type} (P : α → Prop) (bs : List Byte) (r : Except Reject (α × List Byte)) : Prop :=
  ∀ a rest, r = .ok (a, rest) → P a ∧ rest <:+ bs

namespace ReadsEnd

variable {α β : Type} {P : α → Prop} {Q : β → Prop} {bs : List Byte}

theorem error {e : Reject} : ReadsEnd P bs (.error e) := by
  intro a rest h
  cases h

theorem ok {a : α} {rest : List Byte} (ha : P a) (h : rest <:+ bs) : ReadsEnd P bs (.ok (a, rest)) := by
  rintro _ _ ⟨⟩
  exact ⟨ha, h⟩

/-- A value given once every operand was read. -/
theorem done {a : α} (ha : P a) : ReadsEnd P bs (.ok (a, bs)) := ok ha List.suffix_rfl

/-- A value given for the first byte alone. -/
theorem tail {a : α} {b : Byte} (ha : P a) : ReadsEnd P (b :: bs) (.ok (a, bs)) := ok ha (List.suffix_cons b bs)

/-- The readings after the first one leave an end of what it left. -/
theorem chain {r : Except Reject (α × List Byte)} {k : α → List Byte → Except Reject (β × List Byte)}
    (first : ReadsEnd P bs r) (next : ∀ a rest, ReadsEnd Q rest (k a rest)) : ReadsEnd Q bs (chain r k) := by
  intro b rest h
  match r, h with
  | .ok (a, mid), h =>
    obtain ⟨-, left⟩ := first a mid rfl
    obtain ⟨hb, left'⟩ := next a mid b rest h
    exact ⟨hb, left'.trans left⟩

end ReadsEnd

/-- A reading of one operand: whatever it reads, an end of its bytes is left. -/
abbrev LeavesEnd {α : Type} (take : List Byte → Except Reject (α × List Byte)) : Prop :=
  ∀ bs, ReadsEnd (fun _ => True) bs (take bs)

theorem takeByte_leavesEnd : LeavesEnd takeByte
  | [] => .error
  | _ :: _ => .tail trivial

theorem takeBool_leavesEnd : LeavesEnd takeBool
  | [] => .error
  | _ :: _ => by
    dsimp only [takeBool]
    split_ifs
    · exact .tail trivial
    · exact .tail trivial
    · exact .error

theorem takeWord_leavesEnd : LeavesEnd takeWord := by
  intro bs
  unfold takeWord
  split
  · next b0 b1 b2 b3 rest => exact .ok trivial (List.suffix_append [b0, b1, b2, b3] rest)
  · exact .error

theorem takeBytes_leavesEnd (n : Nat) : LeavesEnd (takeBytes n) := by
  intro bs
  unfold takeBytes
  split_ifs
  · exact .ok trivial (List.drop_suffix n bs)
  · exact .error

theorem takeNat_leavesEnd : LeavesEnd takeNat := by
  intro bs
  induction bs with
  | nil => exact .error
  | cons b bs ih =>
    unfold takeNat
    split_ifs
    · exact .tail trivial
    · intro n rest h
      obtain ⟨-, left⟩ := ReadsEnd.chain ih (Q := fun _ => True) (fun _ _ => .done trivial) n rest h
      exact ⟨trivial, left.trans (List.suffix_cons b bs)⟩

theorem takeWidth_leavesEnd : LeavesEnd takeWidth
  | [] => .error
  | _ :: _ => by
    dsimp only [takeWidth]
    split
    · exact .tail trivial
    · exact .error

theorem takeDirection_leavesEnd : LeavesEnd takeDirection
  | [] => .error
  | _ :: _ => by
    dsimp only [takeDirection]
    split
    · exact .tail trivial
    · exact .error

theorem takeRole_leavesEnd : LeavesEnd takeRole
  | [] => .error
  | _ :: _ => by
    dsimp only [takeRole]
    split
    · exact .tail trivial
    · exact .error

theorem takeDescriptor_leavesEnd : LeavesEnd takeDescriptor := fun bs =>
  (takeByte_leavesEnd bs).chain fun _ bs => (takeBool_leavesEnd bs).chain fun _ bs =>
  (takeBool_leavesEnd bs).chain fun _ bs => (takeNat_leavesEnd bs).chain fun _ bs =>
  (takeWidth_leavesEnd bs).chain fun _ bs => (takeDirection_leavesEnd bs).chain fun _ _ => .done trivial

theorem takeRequest_leavesEnd : LeavesEnd takeRequest := fun bs =>
  (takeDescriptor_leavesEnd bs).chain fun _ bs => (takeWord_leavesEnd bs).chain fun _ bs =>
  (takeRole_leavesEnd bs).chain fun _ bs => (takeNat_leavesEnd bs).chain fun n bs =>
  (takeBytes_leavesEnd n bs).chain fun _ bs => (takeWord_leavesEnd bs).chain fun _ bs =>
  (takeBool_leavesEnd bs).chain fun _ _ => .done trivial

/-- A row's operands make an instruction of that row, and an end of their bytes is left. -/
theorem takeOperands_readsEnd (p : Params) (r : Row) (w : Word) (bs : List Byte) :
    ReadsEnd (fun i => i.row = r) bs (takeOperands p r w bs) := by
  cases r with
  | runCommand => exact (takeByte_leavesEnd bs).chain fun _ bs => (takeBool_leavesEnd bs).chain fun _ _ => .done rfl
  | readCommand =>
    exact (takeByte_leavesEnd bs).chain fun _ bs => (takeWord_leavesEnd bs).chain fun _ bs =>
      (takeBool_leavesEnd bs).chain fun _ _ => .done rfl
  | writeCommand =>
    exact (takeByte_leavesEnd bs).chain fun _ bs => (takeWord_leavesEnd bs).chain fun n bs =>
      (takeBytes_leavesEnd (n.toNat + 1) bs).chain fun _ bs => (takeBool_leavesEnd bs).chain fun _ _ => .done rfl
  | writeCommandLen0 => exact (takeByte_leavesEnd bs).chain fun _ bs => (takeBool_leavesEnd bs).chain fun _ _ => .done rfl
  | eraseCommand =>
    exact (takeByte_leavesEnd bs).chain fun _ bs => (takeWord_leavesEnd bs).chain fun _ bs =>
      (takeBool_leavesEnd bs).chain fun _ _ => .done rfl
  | readMemory =>
    exact (takeWord_leavesEnd bs).chain fun _ bs => (takeWord_leavesEnd bs).chain fun _ bs =>
      (takeBool_leavesEnd bs).chain fun _ _ => .done rfl
  | writeMemory =>
    exact (takeWord_leavesEnd bs).chain fun _ bs => (takeWord_leavesEnd bs).chain fun n bs =>
      (takeBytes_leavesEnd n.toNat bs).chain fun _ bs => (takeBool_leavesEnd bs).chain fun _ _ => .done rfl
  | wrInstrctrl =>
    refine (takeWord_leavesEnd bs).chain fun v bs => ?_
    split_ifs
    · exact .done rfl
    · exact .error
  | wrInstraddr => exact (takeWord_leavesEnd bs).chain fun _ _ => .done rfl
  | wrInstrframe => exact (takeWord_leavesEnd bs).chain fun _ _ => .done rfl
  | winWr => exact (takeByte_leavesEnd bs).chain fun _ _ => .done rfl
  | encode =>
    exact (takeDescriptor_leavesEnd bs).chain fun _ bs => (takeBool_leavesEnd bs).chain fun _ bs =>
      (takeWord_leavesEnd bs).chain fun _ _ => .done rfl
  | submit => exact (takeRequest_leavesEnd bs).chain fun _ _ => .done rfl
  | setclk => exact (takeNat_leavesEnd bs).chain fun _ _ => .done rfl
  | _ => exact .done rfl

/-- A row is selected for its own words only, by its number or by the word (Log 9). -/
theorem matchesWord_of_rowOf {p : Params} {w : Word} {number : Byte} {r : Row} (h : rowOf p w number = .ok r) :
    r.matchesWord p w = true := by
  unfold rowOf at h
  split at h
  · split at h
    · next found => cases h; exact (List.find?_some found :)
    · cases h
  · split at h
    · split at h
      · next own => cases h; exact own
      · cases h
    · cases h

/-- What it takes for a word and a row number to begin an instruction. -/
theorem decodeInstr_instr {p : Params} {w : Word} {number : Byte} {bs rest : List Byte} {i : Instr}
    (h : decodeInstr p w number bs = .instr i rest) :
    ∃ r, rowOf p w number = .ok r ∧ takeOperands p r w bs = .ok (i, rest) ∧ i.wellFormed p = true := by
  unfold decodeInstr at h
  split at h
  · cases h
  · next r row =>
    split at h
    · cases h
    · next i rest operands =>
      split at h
      · next wf => cases h; exact ⟨r, row, operands, wf⟩
      · cases h

/-- What it takes for bytes to begin with an instruction: a word's four bytes and a row number before its operands. -/
theorem decode_instr {p : Params} {bs rest : List Byte} {i : Instr} (h : decode p bs = .instr i rest) :
    ∃ b0 b1 b2 b3 number operands, bs = b0 :: b1 :: b2 :: b3 :: number :: operands ∧
      decodeInstr p (wordOfBytes b0 b1 b2 b3) number operands = .instr i rest := by
  unfold decode at h
  split at h
  · next b0 b1 b2 b3 number operands =>
    dsimp only at h
    split at h
    · split at h <;> cases h
    · exact ⟨b0, b1, b2, b3, number, operands, rfl, h⟩
  · cases h

/-- Settles O8: a decoded instruction passed its checks, its row was selected for the word, and its operands left an end. -/
theorem decodedIsWellFormed : Obligations.DecodedIsWellFormed := by
  intro p bs rest i h
  obtain ⟨b0, b1, b2, b3, number, operands, rfl, decoded⟩ := decode_instr h
  obtain ⟨r, row, read, wf⟩ := decodeInstr_instr decoded
  obtain ⟨rfl, used, rfl⟩ := takeOperands_readsEnd p r _ operands i rest read
  exact ⟨wf, ⟨b0, b1, b2, b3, _, rfl, matchesWord_of_rowOf row⟩, b0 :: b1 :: b2 :: b3 :: number :: used, by simp, rfl⟩

/-! ## Words of the spec's encodings, decoded -/

/-- Settles O6, by running the decoder on each. -/
theorem specWordsDecode : Obligations.SpecWordsDecode := by
  unfold Obligations.SpecWordsDecode
  decide

end Sys2Proof

/-! Proofs about the frame encoder (40_frame_encoder.md): the word ENCODE gives, what it determines, and the nine checks of
a request. -/

namespace Sys2Proof

/-! ## The effective type (R81, R82) -/

/-- With transmit data and a nonzero length the override sets bit 1 of the base type. -/
theorem effectiveType_override (dir : Direction) {length : Word} (nonzero : length ≠ 0) :
    effectiveType dir true length = dir.code ||| 0b10 := if_pos (bne_iff_ne.mpr nonzero)

/-- Without transmit data or with length 0 the effective type is the base type. -/
theorem effectiveType_base (dir : Direction) {txPresent : Bool} {length : Word} (none : txPresent = false ∨ length = 0) :
    effectiveType dir txPresent length = dir.code := by
  rcases none with rfl | rfl
  · rfl
  · exact if_neg (by simp)

/-- The override sets a bit that a write and a memory write have already. -/
theorem effectiveType_of_write {dir : Direction} (write : dir = .write ∨ dir = .writeMemory) (txPresent : Bool)
    (length : Word) : effectiveType dir txPresent length = dir.code := by
  rcases write with rfl | rfl <;> exact ite_self _

/-- The effective type with its condition as a proposition. -/
theorem effectiveType_eq (dir : Direction) (txPresent : Bool) (length : Word) :
    effectiveType dir txPresent length = if txPresent = true ∧ length ≠ 0 then dir.code ||| 0b10#2 else dir.code := by
  simp [effectiveType]

/-! ## The word ENCODE gives and what it determines (R74-R86) -/

@[simp] theorem tfrType_encodeFrame (a : AddrLen) (d : Descriptor) (txPresent : Bool) (length : Word) :
    tfrType (encodeFrame a d txPresent length) = effectiveType d.direction txPresent length :=
  tfrType_frameWord _ _

/-- A dummy count of at most 31 fits `DUMMYLEN` (R59, R84). -/
theorem toNat_dummy {n : Nat} (h : n ≤ 31) : (BitVec.ofNat 5 n).toNat = n :=
  Nat.mod_eq_of_lt (Nat.lt_succ_of_le h)

/-- `DUMMYLEN` widened to a word is the dummy count (R84). -/
theorem setWidth_dummy {n : Nat} (h : n ≤ 31) : (BitVec.ofNat 5 n).setWidth 32 = BitVec.ofNat 32 n := by
  apply BitVec.eq_of_toNat_eq
  rw [BitVec.toNat_setWidth, toNat_dummy h, BitVec.toNat_ofNat]

/-- A one-bit field is its bit as a word, shifted to its place. -/
theorem bitField_eq_shiftLeft (b : Bool) (i : Nat) : bitField b i = (if b then 1#32 else 0#32) <<< i := by
  cases b
  · exact (BitVec.zero_shiftLeft i).symm
  · exact BitVec.twoPow_eq 32 i

theorem AddrLen.bit_eq (a : AddrLen) : a.bit = (a == .a32) := by cases a <;> rfl

/-- Settles O12: the fields that are 0 for every descriptor drop out of the frame word, and `INSTREN` is 0x10. -/
theorem encodeOfDescriptor : Obligations.EncodeOfDescriptor := by
  intro a d txPresent length dummy
  have instrEn : bitField true 4 = ((0x10 : ℕ) : Word) := by decide
  have noField (i : Nat) : bitField false i = 0#32 := rfl
  have noLength : (0 : BitVec 2).setWidth 32 <<< 8 = 0#32 := by decide
  simp only [encodeFrame, frameWord, encodeFields, instrEn, noField, noLength, BitVec.or_zero, setWidth_dummy dummy,
    bitField_eq_shiftLeft, AddrLen.bit_eq, effectiveType_eq]

/-- Settles O13: a frame word gives back the fields it was made of, and these are ENCODE's. -/
theorem Encoder.encodeFields : Obligations.EncodeFields := by
  intro a d txPresent length dummy
  obtain ⟨width, -, instrEn, addrEn, optEn, dataEn, optLen, addrLen, -, type, crMode, ddrEn, dummyLen, -⟩ :=
    frameWordGivesFieldsBack (effectiveType d.direction txPresent length) (Sys2Proof.encodeFields a d)
  refine ⟨width.trans ?_, instrEn, addrEn, optEn, optLen, dataEn, addrLen, type.trans ?_, crMode, ddrEn,
    (congrArg BitVec.toNat dummyLen).trans (toNat_dummy dummy)⟩
  · change d.ioWidth.code = _
    cases d.ioWidth <;> rfl
  · cases d.direction with
    | read | readMemory => rfl
    | write | writeMemory => exact ite_self _

/-- A frame word determines its type and its fields (R52). -/
theorem frameWord_inj {t u : BitVec 2} {f g : FrameFields} : frameWord t f = frameWord u g ↔ t = u ∧ f = g := by
  constructor
  · intro same
    exact ⟨by simpa only [tfrType_frameWord] using congrArg tfrType same,
      by simpa only [frameFields_frameWord] using congrArg frameFields same⟩
  · rintro ⟨rfl, rfl⟩
    rfl

/-- No two widths have one code (R54). -/
theorem IoWidth.code_inj {x y : IoWidth} : x.code = y.code ↔ x = y := by
  constructor
  · intro same
    have read := takeWidth_code [] x
    rw [same, takeWidth_code] at read
    cases read
    rfl
  · exact congrArg IoWidth.code

theorem dummy_inj {m n : Nat} (hm : m ≤ 31) (hn : n ≤ 31) : BitVec.ofNat 5 m = BitVec.ofNat 5 n ↔ m = n := by
  rw [← BitVec.toNat_inj, toNat_dummy hm, toNat_dummy hn]

/-- What of a descriptor ENCODE's fields determine (R85, R86). -/
theorem encodeFields_inj {a : AddrLen} {d e : Descriptor} (hd : d.dummyCycles ≤ 31) (he : e.dummyCycles ≤ 31) :
    encodeFields a d = encodeFields a e ↔
      d.ioWidth = e.ioWidth ∧ d.hasAddress = e.hasAddress ∧ d.hasData = e.hasData ∧ d.dummyCycles = e.dummyCycles := by
  simp [encodeFields, IoWidth.code_inj, dummy_inj hd he]

/-- Settles O16: the word determines its type and fields, and the fields these parts of the descriptor. -/
theorem encodeInjective : Obligations.EncodeInjective := by
  intro a d e dTx eTx dLen eLen hd he
  rw [encodeFrame, encodeFrame, frameWord_inj, encodeFields_inj hd he]
  tauto

/-- Settles O17: on a live machine the row has its effect, the update of the output port. -/
theorem encodeTouchesNoState : Obligations.EncodeTouchesNoState := fun s d txPresent length live _ =>
  (Machine.exec_live live).trans (congrArg Host.Outcome.next (s.encodeOut_updates d txPresent length))

/-! ## The nine checks (R73) -/

theorem toNat_pos_iff {v : Word} : 0 < v.toNat ↔ v ≠ 0 :=
  Nat.pos_iff_ne_zero.trans (not_congr (BitVec.toNat_inj (y := 0)))

theorem AddrLen.bits_eq (a : AddrLen) : a.bits = if a = .a32 then 32 else 24 := by cases a <;> rfl

section Checks

variable (p : Params) (r : Request)

@[simp] theorem Request.passes_wf1 : r.passes p .wf1 = true := decide_eq_true r.instruction.opcode.isLt

@[simp] theorem Request.passes_wf3 : r.passes p .wf3 = true := bne_iff_ne.mpr r.instruction.ioWidth.code_ne_seven

theorem Request.passes_wf2 : r.passes p .wf2 = true ↔ r.instruction.dummyCycles ≤ 31 := decide_eq_true_iff

theorem Request.passes_wf4 : r.passes p .wf4 = true ↔ (r.instruction.hasData = false → r.length = 0) := by
  cases h : r.instruction.hasData <;> simp [Request.passes, h]

theorem Request.passes_wf5 : r.passes p .wf5 = true ↔
    (r.role = .noBuffer → r.length = 0 ∧ r.buffer = []) ∧ (r.role ≠ .noBuffer → r.buffer.length = r.length.toNat) := by
  by_cases role : r.role = .noBuffer <;> simp [Request.passes, role]

theorem Request.passes_wf6 : r.passes p .wf6 = true ↔
    (r.instruction.hasAddress = true → r.address.toNat < 2 ^ (if p.addrLen = .a32 then 32 else 24)) := by
  rw [← AddrLen.bits_eq]
  cases h : r.instruction.hasAddress <;> simp [Request.passes, h]

theorem Request.passes_wf7 : r.passes p .wf7 = true ↔ r.off.toNat + r.length.toNat ≤ p.windowSize := decide_eq_true_iff

/-- A request that moves bytes sends them exactly when its effective type is a write's (WF8). -/
theorem Request.passes_wf8 : r.passes p .wf8 = true ↔
    (0 < r.length.toNat → (r.effectiveType.getLsbD 1 = true ↔ r.role = .tx)) := by
  have sends : (r.effectiveType.getLsbD 1 == (r.role == .tx)) = true ↔
      (r.effectiveType.getLsbD 1 = true ↔ r.role = .tx) := by
    rw [beq_iff_eq, Bool.eq_iff_iff, beq_iff_eq]
  rw [Request.passes, Bool.or_eq_true, beq_iff_eq, sends, toNat_pos_iff, or_iff_not_imp_left]

theorem Request.passes_wf9 : r.passes p .wf9 = true ↔
    (r.instruction.direction = .readMemory ∨ r.instruction.direction = .writeMemory → r.instruction.hasAddress = true) := by
  cases h : r.instruction.hasAddress <;> simp [Request.passes, h]

theorem Check.mem_inOrder (c : Check) : c ∈ Check.inOrder := by cases c <;> decide

theorem Request.wellFormed_iff : r.wellFormed p = true ↔ ∀ c : Check, r.passes p c = true :=
  List.all_eq_true.trans ⟨fun all c => all c c.mem_inOrder, fun all c _ => all c⟩

/-- The first failing check is one that fails after checks that all hold. -/
theorem Request.firstFailing_some (c : Check) : r.firstFailing p = some c ↔
    ∃ before after : List Check, Check.inOrder = before ++ c :: after
      ∧ (∀ b ∈ before, r.passes p b = true) ∧ r.passes p c = false := by
  rw [Request.firstFailing, List.find?_eq_some_iff_append]
  constructor
  · rintro ⟨fails, before, after, order, hold⟩
    exact ⟨before, after, order, by simpa using hold, by simpa using fails⟩
  · rintro ⟨before, after, order, hold, fails⟩
    exact ⟨by simpa using fails, before, after, order, by simpa using hold⟩

end Checks

/-- Settles O38: check by check, and by the search for the first that fails. -/
theorem wellFormednessChecks : Obligations.WellFormednessChecks := fun p r =>
  ⟨⟨r.passes_wf1 p, r.passes_wf3 p⟩, r.passes_wf2 p, r.passes_wf4 p, r.passes_wf5 p, r.passes_wf6 p, r.passes_wf7 p,
    r.passes_wf8 p, r.passes_wf9 p, Machine.Request.firstFailing_none.trans (r.wellFormed_iff p), r.firstFailing_some p⟩

/-! ## The override comes before WF8 (R82) -/

section WriteCheck

variable {p : Params} {r : Request}

/-- A request that transmits bytes passes WF8, whatever its base type. -/
theorem Request.passes_wf8_of_tx (nonzero : r.length ≠ 0) (tx : r.role = .tx) : r.passes p .wf8 = true := by
  have writes : r.effectiveType.getLsbD 1 = true := by
    rw [Request.effectiveType, beq_iff_eq.mpr tx, effectiveType_override _ nonzero]
    cases r.instruction.direction <;> rfl
  exact (r.passes_wf8 p).mpr fun _ => iff_of_true writes tx

/-- A write that moves bytes and has none to transmit fails WF8. -/
theorem Request.fails_wf8_of_write (nonzero : r.length ≠ 0) (noTx : r.role ≠ .tx)
    (write : r.instruction.direction = .write ∨ r.instruction.direction = .writeMemory) : r.passes p .wf8 = false := by
  have writes : r.effectiveType.getLsbD 1 = true := by
    rw [Request.effectiveType, effectiveType_of_write write]
    rcases write with h | h <;> rw [h] <;> rfl
  exact Bool.eq_false_iff.mpr fun passes => noTx <| ((r.passes_wf8 p).mp passes (toNat_pos_iff.mpr nonzero)).mp writes

end WriteCheck

/-- Settles O14: TFRTYPE is the effective type, and WF8 looks at that. -/
theorem dataDirectionOverride : Obligations.DataDirectionOverride := by
  intro a d txPresent length
  refine ⟨fun tx nonzero => ?_, fun none => ?_, fun p r nonzero => ?_⟩
  · rw [tfrType_encodeFrame, tx, effectiveType_override _ nonzero]
    cases d.direction <;> rfl
  · rw [tfrType_encodeFrame, effectiveType_base _ none]
    cases d.direction <;> rfl
  · exact ⟨Request.passes_wf8_of_tx nonzero, Request.fails_wf8_of_write nonzero⟩

end Sys2Proof

/-! Proofs about the transport primitives (41_transport_primitives.md): what each does where its checks pass and which fault
it records where one fails, what a register read returns, and the two hangs. -/

namespace Sys2Proof.Machine

variable {s t : State} {i : Instr}

/-! ## A primitive at its row, as one update (R25, R87, Log 13) -/

/-- A write with the request's value, or with no request in progress, has its effect. -/
theorem exec_of_mayWrite {α : Type} [BEq α] [LawfulBEq α] {row : Pc} {v own : α} (f : State → State) (live : s.faults = [])
    (may : s.mayWrite row v own) (gate : effect i s = s.access (s.pc == row && v == own) f) : exec i s = .next (f s) := by
  rw [exec_live live, gate, State.access_mayWrite f may]

/-- An access without operand at its row, or with no request in progress, has its effect. -/
theorem exec_of_mayAccess {row : Pc} (f : State → State) (live : s.faults = []) (may : s.mayAccess row)
    (gate : effect i s = s.access (s.pc == row) f) : exec i s = .next (f s) := by
  rw [exec_live live, gate, State.access_mayAccess f may]

/-- At its row a primitive advances to the row that the step table gives after it. -/
theorem State.advanceAt_eq_pcAfter {row next : Pc}
    (step : s.pc = row → s.nextPc = next := by simp +contextual [State.nextPc]) :
    s.advanceAt row = { s with pc := s.pcAfter row next } := by
  rw [State.advanceAt_eq, State.pcAfter]
  split
  · next atRow => rw [step atRow]
  · rfl

theorem State.keepWord_eq (w : Word) : s.keepWord w =
    { s with word := if s.pc = .s3Frame then w else s.word, pc := s.pcAfter .s3Frame .s4 } := by
  unfold State.keepWord State.pcAfter
  split
  · next row => simp [State.stepPc, State.nextPc, row]
  · rfl

/-! ## The writes that program a frame (R88-R90) -/

/-- Settles O19: the write is made where no frame is held, and is an overrun where one is. -/
theorem opcodeWrite : Obligations.OpcodeWrite := by
  intro s op live own
  have acts : exec (.wrInstrctrl op) s = .next (s.programOpcode op) := exec_of_mayWrite (·.programOpcode op) live own rfl
  rcases s.programOpcode_cases op with ⟨held, raises⟩ | ⟨free, writes⟩
  · rw [acts, raises]
    exact ⟨fun idle none => Bool.noConfusion (held.symm.trans (State.frameHeld_false.mpr ⟨idle, none⟩)), fun _ => rfl⟩
  · rw [acts, writes, State.advanceAt_eq_pcAfter (next := .s3Addr)]
    exact ⟨fun _ _ => rfl, fun held => Bool.noConfusion (free.symm.trans (State.frameHeld_true.mpr held))⟩

/-- Settles O20, as the opcode write. -/
theorem addressWrite : Obligations.AddressWrite := by
  intro s a live own
  have acts : exec (.wrInstraddr a) s = .next (s.programAddress a) := exec_of_mayWrite (·.programAddress a) live own rfl
  rcases s.programAddress_cases a with ⟨held, raises⟩ | ⟨free, writes⟩
  · rw [acts, raises]
    exact ⟨fun idle none => Bool.noConfusion (held.symm.trans (State.frameHeld_false.mpr ⟨idle, none⟩)), fun _ => rfl⟩
  · rw [acts, writes, State.advanceAt_eq_pcAfter (next := .s3Frame)]
    exact ⟨fun _ _ => rfl, fun held => Bool.noConfusion (free.symm.trans (State.frameHeld_true.mpr held))⟩

theorem reservedWord_iff {w : Word} : reservedWord w = true ↔
    w.getLsbD 3 = true ∨ w.getLsbD 11 = true ∨ w.extractLsb' 21 11 ≠ 0 ∨ w.extractLsb' 0 3 = 7 := by
  simp only [reservedWord, Bool.or_eq_true, bne_iff_ne, beq_iff_eq, or_assoc]

/-- The record a frame write latches, its next offset the low bits of `INSTRADDR` where there is an address phase (R90). -/
theorem State.sampleFrame_eq (w : Word) : s.sampleFrame w =
    { seq := s.nextSeq, word := w, opcode := s.instrctrl.extractLsb' 0 8, addr := s.instraddr,
      next := if w.getLsbD 5 = true then s.instraddr.toNat % 2 ^ s.cfg.addrLen.bits else 0, data := [] } := by
  rw [← AddrLen.low_toNat]
  rfl

/-- Settles O21: by the two checks in order, and the record the write latches. -/
theorem frameWrite : Obligations.FrameWrite := by
  intro s w live own
  have acts : exec (.wrInstrframe w) s = .next (s.programFrame w) := exec_of_mayWrite (·.programFrame w) live own rfl
  dsimp only
  rw [← reservedWord_iff, acts]
  rcases s.programFrame_cases w with ⟨held, raises⟩ | ⟨free, reserved, raises⟩ | ⟨free, ok, writes⟩
  · have notFree (idle : s.inflight = false) (none : s.pending = none) : False :=
      Bool.noConfusion (held.symm.trans (State.frameHeld_false.mpr ⟨idle, none⟩))
    rw [raises]
    exact ⟨fun _ => rfl, fun idle none => (notFree idle none).elim, fun idle none => (notFree idle none).elim⟩
  · rw [raises]
    exact ⟨fun held => Bool.noConfusion (free.symm.trans (State.frameHeld_true.mpr held)), fun _ _ _ => rfl,
      fun _ _ ok => absurd reserved ok⟩
  · rw [writes, State.sampleFrame_eq, State.keepWord_eq]
    exact ⟨fun held => Bool.noConfusion (free.symm.trans (State.frameHeld_true.mpr held)),
      fun _ _ reserved => Bool.noConfusion (ok.symm.trans reserved), fun _ _ _ => rfl⟩

/-- The settle read-back, with or without a pending frame (R91). -/
theorem State.settleRead_eq : s.settleRead =
    { s with settled := true, history := s.history ++ [.regRead .instrframe s.instrframe],
             pc := s.pcAfter .s4 (if 0 < s.req.length.toNat then .s5 0 else .s6Start) } := by
  rw [State.settleRead, State.advanceAt_eq_pcAfter (next := if 0 < s.req.length.toNat then .s5 0 else .s6Start)]
  rfl

/-- Settles O22: the read-back is one update, and at `S4` it is the executor's step. -/
theorem settleReadBack : Obligations.SettleReadBack := by
  intro s live
  constructor
  · intro may
    rw [← State.settleRead_eq]
    exact exec_of_mayAccess (·.settleRead) live may rfl
  · intro row
    have step : effect .exec s = s.settleRead := by simp [effect, State.executorStep, row]
    rw [exec_live live, step, State.settleRead_eq, State.pcAfter, if_pos row]

/-! ## The data phase (R92, R93) -/

/-- A window read for which a check fails records that check's fault. -/
theorem State.windowRead_of_fault {p : FrameRecord} {o : Nat} {code : FaultCode} (pending : s.pending = some p)
    (fails : s.windowFault p o false = some code) : s.windowRead o = s.faultedWith code (.offset o) := by
  simp only [State.windowRead, pending, fails, State.faultedWith_eq]

/-- A window write for which a check fails records that check's fault. -/
theorem State.windowWrite_of_fault {p : FrameRecord} {o : Nat} {v : Byte} {code : FaultCode} (pending : s.pending = some p)
    (fails : s.windowFault p o true = some code) : s.windowWrite o v = s.faultedWith code (.offset o) := by
  simp only [State.windowWrite, pending, fails, State.faultedWith_eq]

/-- A window access that raises the fault of the first check that fails, and is `done` where none does, in the terms of R92
and R93. -/
theorem exec_window_cases {write : Bool} {p : FrameRecord} {o : Nat} {done : State}
    (faults : ∀ code, s.windowFault p o write = some code → exec i s = .next (s.faultedWith code (.offset o)))
    (passes : s.windowFault p o write = none → exec i s = .next done) :
    (s.inflight = true ∨ p.word.getLsbD 7 = false → exec i s = .next (s.faultedWith .noFrame (.offset o)))
    ∧ (s.inflight = false → p.word.getLsbD 7 = true →
      (s.settled = false → exec i s = .next (s.faultedWith .unsettledFrame (.offset o)))
      ∧ (s.settled = true → p.word.getLsbD 13 = !write → exec i s = .next (s.faultedWith .windowDirection (.offset o)))
      ∧ (s.settled = true → p.word.getLsbD 13 = write → o ≠ p.next →
        exec i s = .next (s.faultedWith .windowNonSequential (.offset o)))
      ∧ (s.settled = true → p.word.getLsbD 13 = write → o = p.next → s.cfg.cachePresent = true → s.csts = true →
        exec i s = .next (s.faultedWith .cacheActiveDataPhase (.offset o)))
      ∧ (s.settled = true → p.word.getLsbD 13 = write → o = p.next → s.cfg.cachePresent = false ∨ s.csts = false →
        exec i s = .next done)) := by
  obtain ⟨noFrame, others⟩ := s.windowFault_order p o write
  refine ⟨fun h => faults _ (noFrame h), fun idle data => ?_⟩
  obtain ⟨unsettled, direction, sequence, cache, ok⟩ := others idle data
  exact ⟨fun h => faults _ (unsettled h), fun h d => faults _ (direction h d), fun h d n => faults _ (sequence h d n),
    fun h d n present active => faults _ (cache h d n present active), fun h d n off => passes (ok h d n off)⟩

/-- Settles O23: by the order of the checks, and the byte moved where all pass. -/
theorem windowRead : Obligations.WindowRead := by
  intro s o live own
  have acts : exec (.winRd o) s = .next (s.windowRead o.toNat) :=
    (exec_live live).trans (congrArg _ (State.access_mayCopyIn (·.windowRead o.toNat) own))
  refine ⟨fun none => ?_, fun p pending => ?_⟩
  · rw [acts, State.windowRead, none, State.faultedWith_eq]
  · refine exec_window_cases (write := false) (fun code fails => ?_) fun ok => ?_
    · rw [acts, State.windowRead_of_fault pending fails]
    · rw [acts, State.windowRead_of_passes pending ok, State.copied_eq]
      rfl

/-- Settles O24, as the window read; no byte is received. -/
theorem windowWrite : Obligations.WindowWrite := by
  intro s o v live own
  have acts : exec (.winWr o v) s = .next (s.windowWrite o.toNat v) :=
    (exec_live live).trans (congrArg _ (State.access_mayCopyOut (·.windowWrite o.toNat v) own))
  refine ⟨fun none => ?_, fun p pending => ?_⟩
  · rw [acts, State.windowWrite, none, State.faultedWith_eq]
  · refine exec_window_cases (write := true) (fun code fails => ?_) fun ok => ?_
    · rw [acts, State.windowWrite_of_fault pending fails]
    · rw [acts, State.windowWrite_of_passes pending ok, State.copied_eq, List.append_nil, ite_self]
      rfl

/-! ## Performing the pending frame (R94) -/

theorem State.startTransfer_of_fault {code : FaultCode} (fails : s.startFault = some code) :
    s.startTransfer = s.faultedWith code (.reg .ctrla) := by
  simp only [State.startTransfer, fails, State.faultedWith_eq]

theorem State.startTransfer_of_passes {p : FrameRecord} (pending : s.pending = some p) (idle : s.inflight = false)
    (settled : s.settled = true) (clear : s.instrend = false) : s.startTransfer = s.performFrame p := by
  simp [State.startTransfer, State.startFault, pending, idle, settled, clear]

/-- The event of a pending frame, field by field of its word (R32, R52). -/
theorem frameEventOf_eq (p : FrameRecord) (optCode : Byte) : frameEventOf p optCode =
    { seq := p.seq, opcode := p.opcode, width := p.word.extractLsb' 0 3, instrEn := p.word.getLsbD 4,
      addrEn := p.word.getLsbD 5, optEn := p.word.getLsbD 6, dataEn := p.word.getLsbD 7, optLen := p.word.extractLsb' 8 2,
      addrLen := if p.word.getLsbD 10 = true then .a32 else .a24,
      addr := if p.word.getLsbD 5 = false then 0 else if p.word.getLsbD 10 = true then p.addr else p.addr &&& 0x00FFFFFF,
      optCode, tfrType := p.word.extractLsb' 12 2, crMode := p.word.getLsbD 14, ddrEn := p.word.getLsbD 15,
      dummy := p.word.extractLsb' 16 5,
      dir := if p.word.getLsbD 7 = false then .noData else if p.word.getLsbD 13 = true then .dirOut else .dirIn,
      data := p.data } := by
  unfold frameEventOf frameFields frameDir dataEn writeBit tfrType
  generalize p.word.getLsbD 5 = addrEn
  generalize p.word.getLsbD 7 = dataEn
  generalize p.word.getLsbD 10 = addrLen
  cases addrEn <;> cases dataEn <;> cases addrLen <;> rfl

/-- Settles O25: by the checks in order, and the frame performed where all pass. -/
theorem startTransfer : Obligations.StartTransfer := by
  intro s live may
  have acts : exec .start s = .next s.startTransfer := exec_of_mayAccess (·.startTransfer) live may rfl
  have faults {code : FaultCode} (fails : s.startFault = some code) :
      exec .start s = .next (s.faultedWith code (.reg .ctrla)) := by
    rw [acts, State.startTransfer_of_fault fails]
  refine ⟨fun h => faults ?_, fun p pending idle => ⟨fun unsettled => faults ?_, fun h stale => faults ?_, fun h clear => ?_⟩⟩
  · rcases h with h | h <;> simp [State.startFault, h]
  · simp [State.startFault, pending, idle, unsettled]
  · simp [State.startFault, pending, idle, h, stale]
  · rw [acts, State.startTransfer_of_passes pending idle h clear, State.performFrame_eq, frameEventOf_eq]
    rfl

/-! ## The four frame kinds (R53, R55-R58, R94, Log 14) -/

/-- The four frame instructions, each with its `TFRTYPE` and the direction of its data phase (R55). -/
theorem exec_frameKind {f : FrameFields} {k : (FrameFields → Instr) × BitVec 2 × Dir} (live : s.faults = [])
    (own : s.mayWrite .s6Start (frameWord k.2.1 f) (s.req.encoded s.cfg))
    (kind : k ∈ [(Instr.frameRead, 0, Dir.dirIn), (.frameReadMemory, 1, .dirIn), (.frameWrite, 2, .dirOut),
      (.frameWriteMemory, 3, .dirOut)]) :
    exec (k.1 f) s = .next (s.performWord (frameWord k.2.1 f))
      ∧ k.2.2 = if k.2.1.getLsbD 1 then .dirOut else .dirIn := by
  simp only [List.mem_cons, List.not_mem_nil, or_false] at kind
  rcases kind with rfl | rfl | rfl | rfl
  all_goals exact ⟨exec_of_mayWrite (·.performWord _) live own rfl, rfl⟩

/-- Where a frame instruction is let through, so is the start write. -/
theorem exec_start_of_mayWrite {w own : Word} (live : s.faults = []) (may : s.mayWrite .s6Start w own) :
    exec .start s = .next s.startTransfer :=
  exec_of_mayAccess (·.startTransfer) live (may.imp id And.left) rfl

/-- The event of a pending frame whose word is a frame word, in the fields of that word. -/
theorem frameEventOf_frameWord {p : FrameRecord} {t : BitVec 2} {f : FrameFields} (word : p.word = frameWord t f)
    (optCode : Byte) : frameEventOf p optCode =
    { seq := p.seq, opcode := p.opcode, width := f.width, instrEn := f.instrEn, addrEn := f.addrEn, optEn := f.optEn,
      dataEn := f.dataEn, crMode := f.crMode, ddrEn := f.ddrEn, addrLen := f.addrLen,
      addr := if f.addrEn then f.addrLen.low p.addr else 0, optLen := f.optLen, optCode, tfrType := t, dummy := f.dummy,
      dir := if f.dataEn then (if t.getLsbD 1 then .dirOut else .dirIn) else .noData, data := p.data } := by
  have dir : frameDir p.word = if f.dataEn then (if t.getLsbD 1 then .dirOut else .dirIn) else .noData := by
    rw [frameDir, dataEn, writeBit, word, frameWord_bit _ _ 7 (by decide), frameWord_bit _ _ 13 (by decide)]
    cases f.dataEn <;> rfl
  rw [frameEventOf, dir, word, frameFields_frameWord, tfrType_frameWord]

/-- Settles O26: a frame instruction is the start write where its word is pending, and the event is the word's. -/
theorem frameKinds : Obligations.FrameKinds := by
  intro s f k live own kind
  obtain ⟨acts, dir⟩ := exec_frameKind live own kind
  rw [acts, State.performWord, dir]
  refine ⟨fun other => by rw [if_neg other, State.faultedWith_eq], fun p pending word => ?_⟩
  have its : s.pending.map (·.word) = some (frameWord k.2.1 f) := by rw [pending, Option.map_some, word]
  rw [if_pos its, exec_start_of_mayWrite live own]
  refine ⟨rfl, fun idle settled clear => ?_, fun a b c lines => ?_⟩
  · rw [State.startTransfer_of_passes pending idle settled clear, State.performFrame_eq, frameEventOf_frameWord word]
    rfl
  · -- the address and the direction are recorded where their phases are included, and only there
    cases f.addrEn <;> cases f.dataEn <;> simp [FrameEvent.phases, lines, AddrLen.bits_eq, optCodeBits]

/-! ## The barriers, the completion and the poll of the flag (R95-R99) -/

/-- Settles O27: the event is appended, and at its row the barrier is the executor's. -/
theorem barriers : Obligations.Barriers := by
  intro s live
  have dsb : exec .dsb s = .next (s.barrier .dsb .s6Dsb) := exec_live live
  have isb : exec .isb s = .next (s.barrier .isb .s6Isb) := exec_live live
  rw [dsb, isb, State.barrier, State.barrier, State.advanceAt_eq_pcAfter (next := .s6Isb),
    State.advanceAt_eq_pcAfter (next := .s6Poll)]
  exact ⟨rfl, rfl⟩

/-- The completion step is not enabled without a frame in flight, nor while it is wedged (R97, Log 17). -/
theorem State.completeFrame_held (held : ∀ p, s.pending = some p → s.inflight = true → s.frameWedged p.seq = true) :
    s.completeFrame = s := by
  rcases s.completeFrame_cases with same | ⟨p, pending, inflight, free, -⟩
  · exact same
  · simp [held p pending inflight] at free

/-- The clear leaves `INSTREND` 0, whatever it was (R99). -/
theorem instrendAfterWrite_mask (instrend : Bool) : instrendAfterWrite instrend instrendMask = false := by
  simp [instrendAfterWrite, instrendMask]

/-- Only the completion sets `INSTREND` (R97). -/
theorem Change.instrend_set (c : Change s i t) (clear : s.instrend = false) (set : t.instrend = true) : i = .complete := by
  cases c with
  | complete p own => exact own
  | cleared => simp [instrendAfterWrite_mask] at set
  | _ => simp [clear] at set

/-- Settles O28: the frame in flight completes where it is not wedged, and of the changes only that one sets `INSTREND`. -/
theorem frameCompletion : Obligations.FrameCompletion := by
  refine ⟨fun s live => ?_, fun s t i h => (Change.of_exec h).2.instrend_set⟩
  have acts : exec .complete s = .next s.completeFrame := exec_live live
  rw [acts]
  refine ⟨fun p pending inflight free => ?_, fun p pending wedged => congrArg _ ?_, fun none => congrArg _ ?_⟩
  · simp [State.completeFrame, pending, inflight, free, State.log]
  · refine State.completeFrame_held fun q pending' _ => ?_
    obtain rfl : p = q := Option.some.inj (pending.symm.trans pending')
    exact wedged
  · refine State.completeFrame_held fun q pending inflight => ?_
    rcases none with idle | none
    · exact Bool.noConfusion (idle.symm.trans inflight)
    · simp [none] at pending

/-- Settles O29: the read is taken where `INSTREND` is set, with that bit 1 in the word, and held where it is not. -/
theorem completionPoll : Obligations.CompletionPoll := by
  intro s live may
  have acts : exec .rdIntflag s = .next s.pollComplete := exec_of_mayAccess (·.pollComplete) live may rfl
  rcases s.pollComplete_cases with ⟨clear, held⟩ | ⟨set, reads⟩
  · rw [acts, held]
    exact ⟨fun set => Bool.noConfusion (clear.symm.trans set), fun _ => rfl⟩
  · have word : intflagWord s.instrend s.drawnBits = (s.drawnBits &&& ~~~0x00000400) ||| 0x00000400 := by
      rw [set]
      rfl
    rw [acts, reads, word, State.advanceAt_eq_pcAfter (next := .s6Clr)]
    exact ⟨fun _ => rfl, fun clear => Bool.noConfusion (set.symm.trans clear)⟩

/-- Settles O30: a write with bit 10 set leaves `INSTREND` 0, and the row after it is the bracket's or the return. -/
theorem flagClear : Obligations.FlagClear := by
  intro s live may
  have acts : exec .clrIntflag s = .next s.clearFlag := exec_of_mayAccess (·.clearFlag) live may rfl
  rw [acts, State.clearFlag, instrendAfterWrite_mask,
    State.advanceAt_eq_pcAfter (next := if s.bracket then .s7 else .ret)]
  rfl

/-! ## The cache (R100-R105) -/

/-- Settles O31: both are writes of CMCC_CTRL at their row. -/
theorem cacheControlWrites : Obligations.CacheControlWrites := by
  intro s live
  refine ⟨fun may => ?_, fun may => ?_, fun v => rfl⟩
  · have acts : exec .cacheDisable s = .next s.disableCache := exec_of_mayAccess (·.disableCache) live may rfl
    rw [acts, State.disableCache, State.advanceAt_eq_pcAfter (next := .s2Poll)]
    rfl
  · have acts : exec .cacheEnable s = .next s.enableCache := exec_of_mayAccess (·.enableCache) live may rfl
    rw [acts, State.enableCache, State.advanceAt_eq_pcAfter (next := .ret)]
    rfl

/-- Settles O32: the read is taken where `CSTS` is 0, and held where it is not. -/
theorem cacheCleanPoll : Obligations.CacheCleanPoll := by
  intro s live may
  have acts : exec .rdCmccSr s = .next s.pollClean := exec_of_mayAccess (·.pollClean) live may rfl
  rcases s.pollClean_cases with ⟨on, held⟩ | ⟨off, reads⟩
  · rw [acts, held]
    exact ⟨fun off => Bool.noConfusion (on.symm.trans off), fun _ => rfl⟩
  · rw [acts, reads, State.advanceAt_eq_pcAfter (next := .s2Inv)]
    exact ⟨fun _ => rfl, fun on => Bool.noConfusion (off.symm.trans on)⟩

/-- Settles O33: the invalidate is a fault while `CSTS` is 1, and empties the cache where it is 0. -/
theorem cacheInvalidate : Obligations.CacheInvalidate := by
  intro s live may
  have acts : exec .cacheInvalidate s = .next s.invalidateCache := exec_of_mayAccess (·.invalidateCache) live may rfl
  rcases s.invalidateCache_cases with ⟨on, raises⟩ | ⟨off, empties⟩
  · rw [acts, raises]
    exact ⟨fun _ => rfl, fun off => Bool.noConfusion (on.symm.trans off)⟩
  · rw [acts, empties, State.advanceAt_eq_pcAfter (next := .s3Op)]
    exact ⟨fun on => Bool.noConfusion (off.symm.trans on), fun _ => rfl⟩

/-- When the cache's own step is enabled: `CSTS` is to follow `CEN`, and a stop is not wedged (R105). -/
theorem State.settleEnabled_iff : s.settleEnabled = true ↔
    s.csts ≠ s.cen ∧ (s.cen = true ∨ s.cacheWedged s.disableIndex = false) := by
  unfold State.settleEnabled
  cases s.csts <;> cases s.cen <;> simp

/-- Settles O34: the step is enabled under the first clause's conditions, and the second denies them. -/
theorem cacheStatusChange : Obligations.CacheStatusChange := by
  intro s live
  change (_ → s.cen = true ∨ s.cacheWedged s.disableIndex = false → _)
    ∧ (_ ∨ (s.cen = false ∧ s.cacheWedged s.disableIndex = true) → _)
  have acts : exec .cacheSettle s = .next s.settleCache := exec_live live
  have enabled := s.settleEnabled_iff
  rcases s.settleCache_cases with ⟨off, held⟩ | ⟨on, follows⟩
  · rw [off] at enabled
    rw [acts, held]
    exact ⟨fun differs free => Bool.noConfusion (enabled.mpr ⟨differs, free⟩), fun _ => rfl⟩
  · obtain ⟨differs, free⟩ := enabled.mp on
    rw [acts, follows]
    refine ⟨fun _ _ => rfl, fun held => ?_⟩
    rcases held with same | ⟨off, wedged⟩
    · exact absurd same differs
    · simp [off, wedged] at free

/-! ## What a register read returns (R16-R24, R106) -/

/-- Every bit of `INTFLAG` as it is read: `INSTREND` in bit 10, the drawn bits elsewhere (R18). -/
theorem intflagWord_bit (instrend : Bool) (drawn : Word) {n : Nat} (h : n < 32) :
    (intflagWord instrend drawn).getLsbD n = if n = 10 then instrend else drawn.getLsbD n := by
  have mask : instrendMask = BitVec.twoPow 32 10 := by decide
  by_cases bit : n = 10
  · cases instrend <;> simp [intflagWord, mask, bit]
  · cases instrend <;> simp [intflagWord, mask, h, bit, BitVec.getElem_twoPow]

/-- `CMCC_CTRL` reads bit 0 of the word written (R22, R100). -/
theorem bit0Word_cenOfWrite (w : Word) : bit0Word (cenOfWrite w) = w &&& 1 := by
  apply BitVec.eq_of_getLsbD_eq
  intro n hn
  by_cases bit : n = 0 <;> cases set : w.getLsbD 0 <;> simp_all [bit0Word, cenOfWrite]

/-- The value of a register after an event that finds it at `v`: a write of it gives it its value (R106). -/
def registerAfter (r : Reg) (v : Word) : Event → Word
  | .regWrite r' w => if r' = r then w else v
  | _ => v

/-- `INSTREND` after an event: a completion sets it, a write of `INTFLAG` with bit 10 set clears it (R18, R97, R99). -/
def instrendAfter (v : Bool) : Event → Bool
  | .complete _ => true
  | .regWrite .intflag w => v && !w.getLsbD 10
  | _ => v

/-- What `CMCC_SR` reads after an event: the cache's report (R23, R105). -/
def statusAfter (v : Word) : Event → Word
  | .cacheStatus c => if c then 1 else 0
  | _ => v

/-- The registers of a view that hold the word last written. -/
def View.stored (v : View) : Reg → Word
  | .instrctrl  => v.instrctrl
  | .instraddr  => v.instraddr
  | .instrframe => v.instrframe
  | _           => 0

theorem View.after_stored {r : Reg} (own : r = .instrctrl ∨ r = .instraddr ∨ r = .instrframe) (v : View) (e : Event) :
    (v.after e).stored r = registerAfter r (v.stored r) e := by
  rcases own with rfl | rfl | rfl
  all_goals cases e with
  | regWrite r => cases r <;> rfl
  | regRead r => cases r <;> rfl
  | _ => rfl

/-- `CEN` is bit 0 of the `CMCC_CTRL` word, before and after an event. -/
theorem View.after_cen {v : View} {w : Word} (h : bit0Word v.cen = w &&& 1) (e : Event) :
    bit0Word (v.after e).cen = registerAfter .cmccCtrl w e &&& 1 := by
  cases e with
  | regWrite r w =>
    cases r with
    | cmccCtrl => exact bit0Word_cenOfWrite w
    | _ => exact h
  | regRead r => cases r <;> exact h
  | _ => exact h

theorem View.after_instrend (v : View) (e : Event) : (v.after e).instrend = instrendAfter v.instrend e := by
  cases e with
  | regWrite r => cases r <;> rfl
  | regRead r => cases r <;> rfl
  | _ => rfl

theorem View.after_csts (v : View) (e : Event) : bit0Word (v.after e).csts = statusAfter (bit0Word v.csts) e := by
  cases e with
  | regWrite r => cases r <;> rfl
  | regRead r => cases r <;> rfl
  | _ => rfl

/-- What holds of the launch view and an initial value, and is kept by every event, holds of the view that the history gives
and of the value it gives. -/
theorem State.view_foldl {α : Type} (R : View → α → Prop) {next : α → Event → α} {start : α} (sees : s.view = s.replay)
    (launch : R (State.launch s.cfg).view start) (keeps : ∀ v x e, R v x → R (v.after e) (next x e)) :
    R s.view (s.history.foldl next start) := by
  rw [sees, State.replay]
  exact List.foldl_rel launch fun e _ v x h => keeps v x e h

/-- Settles O35: bit by bit, and event by event of a history that determines the state. -/
theorem registerReads : Obligations.RegisterReads := by
  intro s drawn
  refine ⟨rfl, rfl, fun n h => intflagWord_bit _ _ h, rfl, fun sees => ?_⟩
  have last {r : Reg} (own : r = .instrctrl ∨ r = .instraddr ∨ r = .instrframe) :
      s.view.stored r = s.history.foldl (registerAfter r) 0 :=
    State.view_foldl (fun v x => v.stored r = x) sees (by rcases own with rfl | rfl | rfl <;> rfl)
      fun v _ e h => h ▸ v.after_stored own e
  refine ⟨last (.inl rfl), last (.inr (.inl rfl)), last (.inr (.inr rfl)), ?_, ?_, ?_⟩
  · refine State.view_foldl (next := registerAfter .cmccCtrl) (fun v x => bit0Word v.cen = x &&& 1) sees ?_
      fun v _ e h => View.after_cen h e
    change bit0Word s.cfg.cenAtLaunch = bit0Word s.cfg.cenAtLaunch &&& 1
    cases s.cfg.cenAtLaunch <;> rfl
  · refine (intflagWord_bit _ _ (by decide)).trans ?_
    exact State.view_foldl (next := instrendAfter) (fun v x => v.instrend = x) sees rfl
      fun v _ e h => h ▸ v.after_instrend e
  · exact State.view_foldl (next := statusAfter) (fun v x => bit0Word v.csts = x) sees rfl
      fun v _ e h => h ▸ v.after_csts e

/-! ## The two hangs (R97, R98, R102, R105, R120, R135) -/

/-- A wedged frame is in flight and the executor polls for its completion. -/
structure HeldByFrame (p : FrameRecord) (s : State) : Prop where
  live : s.faults = []
  row : s.pc = .s6Poll
  pending : s.pending = some p
  inflight : s.inflight = true
  clear : s.instrend = false
  wedged : s.frameWedged p.seq = true

/-- The cache was disabled and its stop is wedged, and the executor polls for it. -/
structure HeldByCache (s : State) : Prop where
  live : s.faults = []
  row : s.pc = .s2Poll
  off : s.cen = false
  active : s.csts = true
  wedged : s.cacheWedged s.disableIndex = true

/-- The request in progress in `s` has come no further in `t`. -/
def State.SameProgress (s t : State) : Prop := t.busy = s.busy ∧ t.result = s.result

/-- A state kept by each of a list of instructions, none of which returns the request, is kept by the list. -/
theorem runInstrs_keeps {P : State → Prop} {steps : List Instr}
    (keeps : ∀ i ∈ steps, ∀ s, P s → ∃ t, exec i s = .next t ∧ P t ∧ s.SameProgress t) (s : State) (h : P s) :
    ∃ t, runInstrs steps s = .next t ∧ P t ∧ s.SameProgress t := by
  induction steps generalizing s with
  | nil => exact ⟨s, rfl, h, rfl, rfl⟩
  | cons i steps ih =>
    obtain ⟨t, step, ht, busy, result⟩ := keeps i List.mem_cons_self s h
    obtain ⟨u, run, hu, busy', result'⟩ := ih (fun j hj => keeps j (List.mem_cons_of_mem i hj)) t ht
    exact ⟨u, by simp only [runInstrs, step, run], hu, busy'.trans busy, result'.trans result⟩

/-- The poll and the completion leave the state; the cache's step touches nothing of the hang. -/
theorem HeldByFrame.exec_keeps {p : FrameRecord} (h : HeldByFrame p s) (agent : i = .exec ∨ i = .complete ∨ i = .cacheSettle) :
    ∃ t, exec i s = .next t ∧ HeldByFrame p t ∧ s.SameProgress t := by
  rw [exec_live h.live]
  rcases agent with rfl | rfl | rfl
  · have held : effect .exec s = s := by simp [effect, State.executorStep, h.row, State.pollComplete, h.clear]
    exact ⟨s, congrArg _ held, h, rfl, rfl⟩
  · have held : effect .complete s = s := State.completeFrame_held fun q pending _ => by
      obtain rfl : p = q := Option.some.inj (h.pending.symm.trans pending)
      exact h.wedged
    exact ⟨s, congrArg _ held, h, rfl, rfl⟩
  · refine ⟨s.settleCache, rfl, ?_⟩
    rcases s.settleCache_cases with ⟨-, held⟩ | ⟨-, follows⟩
    · rw [held]
      exact ⟨h, rfl, rfl⟩
    · rw [follows]
      exact ⟨⟨h.live, h.row, h.pending, h.inflight, h.clear, h.wedged⟩, rfl, rfl⟩

/-- The poll and the cache's step leave the state; a completion is no disable and touches nothing of the hang. -/
theorem HeldByCache.exec_keeps (h : HeldByCache s) (agent : i = .exec ∨ i = .complete ∨ i = .cacheSettle) :
    ∃ t, exec i s = .next t ∧ HeldByCache t ∧ s.SameProgress t := by
  rw [exec_live h.live]
  rcases agent with rfl | rfl | rfl
  · have held : effect .exec s = s := by simp [effect, State.executorStep, h.row, State.pollClean, h.active]
    exact ⟨s, congrArg _ held, h, rfl, rfl⟩
  · refine ⟨s.completeFrame, rfl, ?_⟩
    rcases s.completeFrame_cases with held | ⟨p, -, -, -, completes⟩
    · rw [held]
      exact ⟨h, rfl, rfl⟩
    · have same : s.completeFrame.disableIndex = s.disableIndex := by
        simp [completes, State.disableIndex, List.count_append]
      have wedged : s.completeFrame.cacheWedged s.completeFrame.disableIndex = true := by
        rw [same, completes]
        exact h.wedged
      rw [completes] at wedged ⊢
      exact ⟨⟨h.live, h.row, h.off, h.active, wedged⟩, rfl, rfl⟩
  · have held : effect .cacheSettle s = s := if_neg fun enabled => by
      simpa [h.off, h.wedged] using (State.settleEnabled_iff.mp enabled).2
    exact ⟨s, congrArg _ held, h, rfl, rfl⟩

/-- Settles O58: every step of an agent keeps either hang, so any list of them does. -/
theorem wedgesHangWithoutFault : Obligations.WedgesHangWithoutFault := by
  intro steps s live agents
  constructor
  · intro p row pending inflight clear wedged
    obtain ⟨t, run, h, busy, result⟩ := runInstrs_keeps (P := HeldByFrame p)
      (fun i hi _ held => held.exec_keeps (agents i hi)) s ⟨live, row, pending, inflight, clear, wedged⟩
    exact ⟨t, run, h.row, h.pending, h.inflight, h.clear, h.live, busy, result⟩
  · intro row off active wedged
    obtain ⟨t, run, h, busy, result⟩ := runInstrs_keeps (P := HeldByCache)
      (fun i hi _ held => held.exec_keeps (agents i hi)) s ⟨live, row, off, active, wedged⟩
    exact ⟨t, run, h.row, h.off, h.active, h.live, busy, result⟩

end Sys2Proof.Machine

/-! Proofs about the transport executor (42_transport_executor.md): submission, the entry checks, the window pointer, the
return, the number of a frame, and what an opted-out request leaves alone. -/

namespace Sys2Proof.Machine

variable {s t : State} {i : Instr}

/-! ## Submission, the clock rate, the entry checks and the return (R108-R110, R118, R122) -/

/-- Settles O36: a submission is a fault while a request is in progress, and latches its request otherwise. -/
theorem submission : Obligations.Submission := by
  intro s r live
  have acts : exec (.submit r) s = .next (s.submitRequest r) := exec_live live
  refine ⟨fun busy => ?_, fun free => ?_⟩
  · rw [acts, State.submitRequest, if_pos busy, State.faultedWith_eq]
  · rw [acts, State.submitted_eq s r free, State.submitted]

/-- Settles O43: as a submission, and a rate is only recorded. -/
theorem clockRate : Obligations.ClockRate := by
  intro s hz live
  have acts : exec (.setclk hz) s = .next (s.setClock hz) := exec_live live
  refine ⟨fun busy => ?_, fun free => ?_⟩
  · rw [acts, State.setClock, if_pos busy, State.faultedWith_eq]
  · rw [acts, State.setClock, if_neg (by simp [free])]

/-- From a live machine EXEC is the executor's step at its row (R107). -/
theorem exec_exec_of_step (live : s.faults = []) (step : s.executorStep = t) : exec .exec s = .next t :=
  (exec_live live).trans (congrArg _ step)

/-- No check reads the opcode: WF1 holds of every one (R73). -/
theorem Request.passes_withOpcode (p : Params) (r : Request) (op : Byte) (c : Check) :
    ({ r with instruction := { r.instruction with opcode := op } } : Request).passes p c = r.passes p c := by
  cases c with
  | wf1 => rw [Request.passes_wf1, Request.passes_wf1]
  | _ => rfl

/-- Settles O39: by what the entry can do, and by the checks one by one. -/
theorem entryChecks : Obligations.EntryChecks := by
  refine ⟨fun s live row => ?_, fun p r op => ?_⟩
  · have acts : exec .exec s = .next s.checkEntry := exec_exec_of_step live (by simp only [State.executorStep, row])
    rw [acts]
    rcases s.checkEntry_cases with ⟨c, fails, step⟩ | ⟨passes, off, step⟩ | ⟨passes, on, step⟩
    · simp [step, fails, State.faultedWith_eq]
    · simp [step, passes, off, State.faultedWith_eq]
    · simp [step, passes, on, State.stepPc, State.nextPc, row]
  · simp only [Request.firstFailing, Request.passes_withOpcode]

/-- At `S1` the executor computes the window pointer and whether the bracket is taken (R110, R112). -/
theorem exec_s1 (live : s.faults = []) (row : s.pc = .s1) :
    exec .exec s = .next { s with
      ptr := s.cfg.windowBase + s.req.off
      bracket := s.req.bracketed s.cfg
      pc := if s.req.bracketed s.cfg then .s2Dis else .s3Op } := by
  refine exec_exec_of_step live ?_
  simp only [State.executorStep, row, State.windowPointer_updates, State.stepPc, State.nextPc]
  rfl

/-- Settles O40: the step at `S1`, and a sum of numbers that stays below 2^32. -/
theorem windowPointer : Obligations.WindowPointer := by
  intro s live row
  dsimp only
  change exec .exec s = .next { s with
      ptr := s.cfg.windowBase + s.req.off
      bracket := s.req.bracketed s.cfg
      pc := if s.req.bracketed s.cfg then .s2Dis else .s3Op } ∧ _
  refine ⟨exec_s1 live row, fun passes ends => ?_⟩
  rw [Request.passes_wf7, Request.off] at passes
  generalize (if s.req.instruction.hasAddress = true then s.req.address else 0) = off at passes ⊢
  refine ⟨fun inside => ?_, fun n moved => ?_, fun _ past top => BitVec.eq_of_toNat_eq ?_⟩
  · rw [BitVec.toNat_add, Nat.mod_eq_of_lt]
    omega
  · rw [BitVec.toNat_add, Nat.mod_eq_of_lt]
    all_goals omega
  · rw [BitVec.toNat_add, past, top, Nat.mod_self]
    rfl

/-- The step at `RET` (R118). -/
theorem exec_ret (live : s.faults = []) (row : s.pc = .ret) :
    exec .exec s = .next { s with
      result := some s.returnValue
      history := s.history ++ [.returned s.returnValue]
      busy := false
      pc := .idle
      draws := if s.cfg.failureAdmitted then s.draws + 1 else s.draws } :=
  exec_exec_of_step live (by simp only [State.executorStep, row, State.returnRequest_eq])

/-- A request returns the bytes received, or `FAIL` where failure is admitted (R118). -/
theorem State.returnValue_cases (s : State) : s.returnValue = .ok (if s.req.role = .rx then s.rx else []) ∨
    (s.cfg.failureAdmitted = true ∧ s.returnValue = .fail) := by
  unfold State.returnValue
  cases s.cfg.failureAdmitted <;> cases s.drawnFail <;> simp

/-- Settles O42: the step at `RET` with the value it returns. -/
theorem returnResult : Obligations.ReturnResult := fun s live row => ⟨s.returnValue, s.returnValue_cases, exec_ret live row⟩

/-! ## The number of a frame (R29, R94, R121) -/

/-- A frame that has not been performed has as its number the count of those that have been. -/
theorem Sound.seq_eq_length {p : FrameRecord} (h : Sound s) (pending : s.pending = some p) (idle : s.inflight = false) :
    p.seq = (framesOf s.history).length := by
  have latest := State.pendingSound_latest (h.pending p pending)
  obtain ⟨-, count⟩ := State.numbered_iff.mp h.numbered
  simp only [pending, idle, Option.isSome_some, Bool.not_false, Bool.and_self, if_true] at count
  omega

/-- A pending frame holds the opcode and the address that their registers hold (R90). -/
theorem State.pendingSound_registers {p : FrameRecord} (h : s.pendingSound p = true) :
    p.opcode = s.instrByte ∧ p.addr = s.instraddr := by
  simp only [State.pendingSound, Bool.and_eq_true, beq_iff_eq] at h
  tauto

/-- A zero-extended opcode byte in `INSTRCTRL` is no option code (R20). -/
theorem State.optCode_eq_zero (reserved : s.instrctrl.extractLsb' 8 24 = 0) : s.optCode = 0 := by
  apply BitVec.eq_of_getLsbD_eq
  intro n hn
  have bit := congrArg (·.getLsbD (8 + n)) reserved
  simp only [BitVec.getLsbD_extractLsb'] at bit
  simp only [State.optCode, BitVec.getLsbD_extractLsb', hn]
  simpa [show 8 + n < 24 by omega, show 8 + (8 + n) = 16 + n by omega] using bit

/-- Only the start of a frame adds one to the frames of the history (R94). -/
theorem Change.frames (c : Change s i t) : framesOf t.history = framesOf s.history ∨
    ∃ p, s.pending = some p ∧ s.inflight = false ∧ framesOf t.history = framesOf s.history ++ [frameEventOf p s.optCode] := by
  cases c with
  | perform p _ pending idle => exact .inr ⟨p, pending, idle, by simp [framesOf, frameEventOf?]⟩
  | _ => left; simp [frameEventOf?]

/-- Settles O52: the frame that a change performs is the pending one, which agrees with the registers and is numbered. -/
theorem frameNumberIsFramesBefore : Obligations.FrameNumberIsFramesBefore := by
  intro s t i sound step
  have h := State.sound_iff.mp sound
  rcases (Change.of_exec step).2.frames with same | ⟨p, pending, idle, added⟩
  · exact .inl same
  · obtain ⟨opcode, addr⟩ := State.pendingSound_registers (h.pending p pending)
    refine .inr ⟨frameEventOf p s.optCode, added, h.seq_eq_length pending idle, opcode,
      State.optCode_eq_zero h.ctrlBits, ?_⟩
    simp only [frameEventOf, addr]

/-! ## An opted-out request and the cache (R50, R112) -/

/-- The events of the cache and of its registers (R100-R105). -/
def Event.ofCache : Event → Bool
  | .cacheInvalidate | .cacheStatus _ => true
  | .regWrite r _ => r == .cmccCtrl
  | .regRead r _ => r == .cmccSr
  | _ => false

/-- An event that is none of the cache's is none of the four kinds. -/
theorem Event.ofCache_false {e : Event} (h : Event.ofCache e = false) :
    e ≠ .cacheInvalidate ∧ (∀ v, e ≠ .regWrite .cmccCtrl v) ∧ (∀ v, e ≠ .regRead .cmccSr v) ∧ ∀ c, e ≠ .cacheStatus c := by
  refine ⟨?_, fun v => ?_, fun v => ?_, fun c => ?_⟩
  all_goals
    rintro rfl
    cases h

/-- The rows of the bracket, steps 2 and 7 (R111, R117). -/
def Pc.InBracket (row : Pc) : Prop := row = .s2Dis ∨ row = .s2Poll ∨ row = .s2Inv ∨ row = .s7

/-- A request that does not ask for the bracket is at no row of it (R112). -/
theorem coherent_not_inBracket (h : s.coherent = true) (out : s.req.bracketed s.cfg = false) : ¬ s.pc.InBracket := by
  rintro (row | row | row | row)
  all_goals
    simp [State.coherent, row] at h
    grind

/-- Away from the bracket's rows the executor appends no event of the cache. -/
theorem Change.cacheEvents_eq (c : Change s .exec t) (away : ¬ s.pc.InBracket) :
    t.history.filter Event.ofCache = s.history.filter Event.ofCache := by
  have atRow {j : Instr} {row : Pc} (own : .exec = j ∨ ((.exec : Instr) = .exec ∧ s.pc = row)) (other : .exec ≠ j)
      (its : row.InBracket) : False := away ((own.resolve_left other).2 ▸ its)
  cases c with
  | disabled own => exact (atRow own (by simp) (.inl rfl)).elim
  | clean own => exact (atRow own (by simp) (.inr (.inl rfl))).elim
  | invalidated own => exact (atRow own (by simp) (.inr (.inr (.inl rfl)))).elim
  | enabled own => exact (atRow own (by simp) (.inr (.inr (.inr rfl)))).elim
  | cacheStatus own => cases own
  | _ => simp [Event.ofCache]

/-- Away from the bracket's rows the executor leaves the cache's state alone. -/
theorem Change.cache_eq (c : Change s .exec t) (away : ¬ s.pc.InBracket) :
    t.cen = s.cen ∧ t.csts = s.csts ∧ t.lines = s.lines := by
  obtain ⟨notDis, -, notInv, notS7⟩ : s.pc ≠ .s2Dis ∧ s.pc ≠ .s2Poll ∧ s.pc ≠ .s2Inv ∧ s.pc ≠ .s7 := by
    simpa [Pc.InBracket] using away
  have cen := c.cen_writer
  have csts := c.csts_writer
  have lines := c.lines_writer
  simp only [reduceCtorEq, notDis, notInv, notS7, or_false, and_false] at cen csts lines
  exact ⟨cen, csts, lines⟩

/-- At `S6_CLR` the executor clears the completion flag and goes on to the bracket's exit or to the return (R99, R116). -/
theorem exec_s6Clr (live : s.faults = []) (row : s.pc = .s6Clr) :
    exec .exec s = .next { s with
      instrend := false
      history := s.history ++ [.regWrite .intflag instrendMask]
      pc := if s.bracket then .s7 else .ret } := by
  refine exec_exec_of_step live ?_
  simp [State.executorStep, row, State.clearFlag, instrendAfterWrite_mask, State.log, State.advanceAt_eq, State.nextPc]

/-- With the cache present and active the copy of a byte is a fault at the byte's offset (R49, R92, R93, R115). -/
theorem coherent_copy_faults {n : Nat} (h : s.coherent = true) (row : s.pc = .s5 n) (live : s.faults = [])
    (present : s.cfg.cachePresent = true) (on : s.csts = true) :
    exec .exec s = .next (s.faultedWith .cacheActiveDataPhase (.offset (s.req.off.toNat + n))) := by
  obtain ⟨wf, inside, word, -, settled, inflight, p, pending, sameWord, -, -, next, -⟩ := coherent_copy_row h row
  have hasData : p.word.getLsbD 7 = true := by
    have data := dataEn_encoded s.cfg s.req
    rw [Request.hasData_of_wellFormed wf inside] at data
    rwa [sameWord]
  have place := coherent_copyOffset h row
  have fails : s.windowFault p (s.copyOffset n) (writeBit s.word) = some .cacheActiveDataPhase := by
    obtain ⟨-, others⟩ := s.windowFault_order p (s.copyOffset n) (writeBit s.word)
    obtain ⟨-, -, -, cache, -⟩ := others inflight hasData
    exact cache settled (by rw [sameWord, word]; rfl) (by rw [place, next]) present on
  refine exec_exec_of_step live ?_
  simp only [State.executorStep, row]
  rw [← place]
  rcases s.copyByte_cases n with ⟨write, step⟩ | ⟨read, step⟩
  · rw [step, State.windowWrite_of_fault pending (write ▸ fails)]
  · rw [step, State.windowRead_of_fault pending (read ▸ fails)]

/-- Settles O57: an opted-out request is at no row of the bracket, and no other row of the executor's touches the cache. -/
theorem optOutLeavesCacheAlone : Obligations.OptOutLeavesCacheAlone := by
  intro s t h _ optsOut step
  have out : s.req.bracketed s.cfg = false := by rcases optsOut with e | e <;> simp [Request.bracketed, e]
  have away := coherent_not_inBracket h out
  obtain ⟨live, c⟩ := Change.of_exec step
  obtain ⟨cen, csts, lines⟩ := c.cache_eq away
  have goesTo {u : State} (acts : exec .exec s = .next u) : t = u := Host.Outcome.next.inj (step.symm.trans acts)
  refine ⟨cen, csts, lines, fun es added e he => Event.ofCache_false ?_, fun row => ?_, fun row => ?_,
    fun n row present on => goesTo (coherent_copy_faults h row live present on)⟩
  · have none : ∀ e ∈ es, Event.ofCache e = false := by simpa [added] using c.cacheEvents_eq away
    exact none e he
  · rw [goesTo (exec_s1 live row)]
    simp [out]
  · have bracket : s.bracket = false := by
      simp [State.coherent, row, out] at h
      tauto
    rw [goesTo (exec_s6Clr live row)]
    simp [bracket]

end Sys2Proof.Machine

/-! Proofs about the run of one request (42_transport_executor.md, 95_test_vectors.md 0): its steps as segments, each adding
its part of the trace. -/

namespace Sys2Proof.Machine

variable {s t u : State} {i : Instr}

/-! ## Traces and runs, composed (R31, R70, R119) -/

@[simp] theorem traceOf_append (es es' : List Event) : traceOf (es ++ es') = traceOf es ++ traceOf es' :=
  List.filterMap_append

theorem runInstrs_append {is js : List Instr} (first : runInstrs is s = .next t) (second : runInstrs js t = .next u) :
    runInstrs (is ++ js) s = .next u := by
  induction is generalizing s with
  | nil =>
    obtain rfl : s = t := by simpa [runInstrs] using first
    exact second
  | cons i is ih =>
    cases step : exec i s with
    | next s' =>
      simp only [runInstrs, step] at first
      simpa [runInstrs, step] using ih first
    | fault r => simp [runInstrs, step] at first
    | refused r => simp [runInstrs, step] at first

/-- A part of a request's run: the agents' steps `is` lead from `s` to a coherent live state `t`, for the same request, and
add the micro-operations `ops` and the frame events `frames`. -/
structure Segment (is : List Instr) (s t : State) (ops : List TraceOp) (frames : List FrameEvent) : Prop where
  run : runInstrs is s = .next t
  coherent : t.coherent = true
  live : t.faults = []
  cfg : t.cfg = s.cfg
  req : t.req = s.req
  refused : t.refused = s.refused
  trace : traceOf t.history = traceOf s.history ++ ops
  frame : framesOf t.history = framesOf s.history ++ frames

namespace Segment

variable {is js : List Instr} {ops ops' : List TraceOp} {frames frames' : List FrameEvent}

theorem nil (h : s.coherent = true) (live : s.faults = []) : Segment [] s s [] [] where
  run := rfl
  coherent := h
  live := live
  cfg := rfl
  req := rfl
  refused := rfl
  trace := by simp
  frame := by simp

theorem trans (first : Segment is s t ops frames) (second : Segment js t u ops' frames') :
    Segment (is ++ js) s u (ops ++ ops') (frames ++ frames') where
  run := runInstrs_append first.run second.run
  coherent := second.coherent
  live := second.live
  cfg := second.cfg.trans first.cfg
  req := second.req.trans first.req
  refused := second.refused.trans first.refused
  trace := by rw [second.trace, first.trace, List.append_assoc]
  frame := by rw [second.frame, first.frame, List.append_assoc]

/-- A step of an agent of the block that records no fault. -/
theorem step (h : s.coherent = true) (agent : i.ofAgent = true) (other : i.submits = false) (acts : exec i s = .next t)
    (live : t.faults = []) {es : List Event} (added : t.history = s.history ++ es) :
    Segment [i] s t (traceOf es) (framesOf es) := by
  have c := (Change.of_exec acts).2
  exact {
    run := by simp only [runInstrs, acts]
    coherent := c.keeps_coherent agent h
    live
    cfg := c.cfg_eq
    req := (c.request_writer.resolve_right (by simp [other])).1
    refused := c.refused_eq.resolve_right (by simp [Instr.isAccess_of_ofAgent agent])
    trace := by rw [added, traceOf_append]
    frame := by rw [added, framesOf_append] }

/-- A step of the executor after a segment. -/
theorem andExec (first : Segment is s t ops frames) (acts : exec .exec t = .next u) (live : u.faults = [])
    {es : List Event} (added : u.history = t.history ++ es) :
    Segment (is ++ [.exec]) s u (ops ++ traceOf es) (frames ++ framesOf es) :=
  first.trans (step first.coherent rfl rfl acts live added)

end Segment

/-! ## The executor's step at the rows of a request that meets no fault (R111, R113, R114, R116, R117) -/

/-- ENCODE gives no word with a reserved encoding (R63, R75). -/
theorem reservedWord_encoded (cfg : Params) (r : Request) : reservedWord (r.encoded cfg) = false :=
  reservedWord_frameWord _ _ r.instruction.ioWidth.code_ne_seven

section Rows

variable (live : s.faults = [])
include live

theorem exec_s2Dis (row : s.pc = .s2Dis) :
    exec .exec s = .next { s with cen := false, history := s.history ++ [.regWrite .cmccCtrl 0], pc := .s2Poll } :=
  exec_exec_of_step live (by
    simp [State.executorStep, row, State.disableCache, cenOfWrite, State.log, State.advanceAt_eq, State.nextPc])

theorem exec_s2Poll (row : s.pc = .s2Poll) (off : s.csts = false) :
    exec .exec s = .next { s with history := s.history ++ [.regRead .cmccSr 0], pc := .s2Inv } :=
  exec_exec_of_step live (by
    simp [State.executorStep, row, State.pollClean, off, bit0Word, State.log, State.advanceAt_eq, State.nextPc])

theorem exec_s2Inv (row : s.pc = .s2Inv) (off : s.csts = false) :
    exec .exec s = .next { s with lines := [], history := s.history ++ [.cacheInvalidate], pc := .s3Op } :=
  exec_exec_of_step live (by
    simp [State.executorStep, row, State.invalidateCache, off, State.log, State.advanceAt_eq, State.nextPc])

theorem exec_s3Op (row : s.pc = .s3Op) (free : s.frameHeld = false) :
    exec .exec s = .next { s with
      instrctrl := s.req.instruction.opcode.setWidth 32
      history := s.history ++ [.regWrite .instrctrl (s.req.instruction.opcode.setWidth 32)]
      pc := .s3Addr } :=
  exec_exec_of_step live (by
    simp [State.executorStep, row, State.programOpcode, free, State.log, State.advanceAt_eq, State.nextPc])

theorem exec_s3Addr (row : s.pc = .s3Addr) (free : s.frameHeld = false) :
    exec .exec s = .next { s with
      instraddr := s.req.off
      history := s.history ++ [.regWrite .instraddr s.req.off]
      pc := .s3Frame } :=
  exec_exec_of_step live (by
    simp [State.executorStep, row, State.programAddress, State.programmedAddress, free, State.log, State.advanceAt_eq,
      State.nextPc])

theorem exec_s3Frame (row : s.pc = .s3Frame) (free : s.frameHeld = false) :
    exec .exec s = .next { s with
      instrframe := s.req.encoded s.cfg
      settled := false
      pending := some (s.sampleFrame (s.req.encoded s.cfg))
      nextSeq := s.nextSeq + 1
      word := s.req.encoded s.cfg
      history := s.history ++ [.regWrite .instrframe (s.req.encoded s.cfg)]
      pc := .s4 } :=
  exec_exec_of_step live (by
    simp [State.executorStep, row, State.programFrame, State.requestWord, free, reservedWord_encoded, State.log,
      State.keepWord_eq, State.pcAfter])

/-- The start write performs the pending frame (R94, R116). -/
theorem exec_s6Start {p : FrameRecord} (row : s.pc = .s6Start) (pending : s.pending = some p) (idle : s.inflight = false)
    (settled : s.settled = true) (clear : s.instrend = false) :
    exec .exec s = .next { s with
      enable := true
      inflight := true
      history := s.history ++ [.frame (frameEventOf p s.optCode), .regWrite .ctrla startWord]
      pc := .s6Dsb } := by
  refine exec_exec_of_step live ?_
  simp only [State.executorStep, row, State.startTransfer_of_passes pending idle settled clear, State.performFrame_eq,
    if_true]

theorem exec_s6Dsb (row : s.pc = .s6Dsb) :
    exec .exec s = .next { s with history := s.history ++ [.barrier .dsb], pc := .s6Isb } :=
  exec_exec_of_step live (by simp [State.executorStep, row, State.barrier, State.log, State.advanceAt_eq, State.nextPc])

theorem exec_s6Isb (row : s.pc = .s6Isb) :
    exec .exec s = .next { s with history := s.history ++ [.barrier .isb], pc := .s6Poll } :=
  exec_exec_of_step live (by simp [State.executorStep, row, State.barrier, State.log, State.advanceAt_eq, State.nextPc])

/-- The poll is taken once the completion flag is set (R98). -/
theorem exec_s6Poll (row : s.pc = .s6Poll) (set : s.instrend = true) :
    exec .exec s = .next { s with
      draws := s.draws + 1
      history := s.history ++ [.regRead .intflag (intflagWord true s.drawnBits)]
      pc := .s6Clr } :=
  exec_exec_of_step live (by
    simp [State.executorStep, row, State.pollComplete, set, State.drew, State.log, State.advanceAt_eq, State.nextPc])

/-- The controller completes a frame in flight that is not wedged (R97). -/
theorem exec_complete {p : FrameRecord} (pending : s.pending = some p) (inflight : s.inflight = true)
    (free : s.frameWedged p.seq = false) :
    exec .complete s = .next { s with
      instrend := true, inflight := false, pending := none, history := s.history ++ [.complete p.seq] } := by
  rw [exec_live live]
  simp [effect, State.completeFrame, pending, inflight, free, State.log]

theorem exec_s7 (row : s.pc = .s7) :
    exec .exec s = .next { s with cen := true, history := s.history ++ [.regWrite .cmccCtrl 1], pc := .ret } :=
  exec_exec_of_step live (by
    simp [State.executorStep, row, State.enableCache, cenOfWrite, State.log, State.advanceAt_eq, State.nextPc])

end Rows

/-! ## Step 2 and step 7: the bracket (R111, R117) -/

/-- The cache's step changes nothing but `CSTS` and the history (R105). -/
theorem State.settleCache_eq (s : State) :
    s.settleCache = { s with csts := s.settleCache.csts, history := s.settleCache.history } := by
  rcases s.settleCache_cases with ⟨-, held⟩ | ⟨-, follows⟩
  · rw [held]
  · rw [follows]
    rfl

/-- The event of the cache's step is no micro-operation and no frame (R31, R119). -/
theorem Segment.settle (h : s.coherent = true) (live : s.faults = []) : Segment [.cacheSettle] s s.settleCache [] [] := by
  have acts : exec .cacheSettle s = .next s.settleCache := exec_live live
  have faults : s.settleCache.faults = [] := by rw [State.settleCache_eq, live]
  rcases s.settleCache_cases with ⟨-, held⟩ | ⟨-, follows⟩
  · exact .step (es := []) h rfl rfl acts faults (by simp [held])
  · exact .step (es := [.cacheStatus s.cen]) h rfl rfl acts faults (by simp [follows])

/-- After a disable that is not wedged the cache's step leaves `CSTS` 0 (R105). -/
theorem State.settleCache_off (off : s.cen = false) (free : s.csts = true → s.cacheWedged s.disableIndex = false) :
    s.settleCache.csts = false := by
  rcases s.settleCache_cases with ⟨held, same⟩ | ⟨-, follows⟩
  · rw [same]
    by_contra on
    have on : s.csts = true := by simpa using on
    simp [State.settleEnabled, on, off, free on] at held
  · rw [follows, State.log_csts, off]

/-- The steps of the bracket's entry, where it is taken: the cache is disabled, stops, and is emptied (R111). -/
def entrySteps (taken : Bool) : List Instr := if taken then .exec :: .cacheSettle :: execs 2 else []

/-- The steps of the bracket's exit, where it is taken (R117). -/
def exitSteps (taken : Bool) : List Instr := if taken then [.exec, .cacheSettle] else []

/-- The disable, and the cache's step after it, which stops the cache unless it is wedged (R101, R105). -/
theorem exists_segment_disable (h : s.coherent = true) (live : s.faults = []) (row : s.pc = .s2Dis)
    (free : s.csts = true → s.cacheWedged (s.history.count (.regWrite .cmccCtrl 0)) = false) :
    ∃ t, Segment [.exec, .cacheSettle] s t [.w32 .cmccCtrl 0] [] ∧ t.pc = .s2Poll ∧ t.csts = false
      ∧ t.rx = s.rx ∧ t.nextSeq = s.nextSeq := by
  have disabled := Segment.step (es := [_]) h rfl rfl (exec_s2Dis live row) live rfl
  have stopped := disabled.trans (.settle disabled.coherent disabled.live)
  refine ⟨_, stopped, by rw [State.settleCache_eq], State.settleCache_off rfl fun on => ?_, by rw [State.settleCache_eq],
    by rw [State.settleCache_eq]⟩
  simpa [State.disableIndex, State.cacheWedged] using free on

/-- Step 2 leaves the cache stopped where it is taken, and is none where it is not (R111, R112). -/
theorem exists_segment_entry {taken : Bool} (h : s.coherent = true) (live : s.faults = [])
    (row : s.pc = if taken then .s2Dis else .s3Op)
    (free : taken = true → s.csts = true → s.cacheWedged (s.history.count (.regWrite .cmccCtrl 0)) = false) :
    ∃ t, Segment (entrySteps taken) s t (bracketEntry taken) [] ∧ t.pc = .s3Op ∧ t.csts = (!taken && s.csts)
      ∧ t.rx = s.rx ∧ t.nextSeq = s.nextSeq := by
  cases taken with
  | false => exact ⟨s, .nil h live, row, by simp, rfl, rfl⟩
  | true =>
    obtain ⟨t, stopped, poll, off, rx, nextSeq⟩ := exists_segment_disable h live row (free rfl)
    have polled := stopped.andExec (es := [_]) (exec_s2Poll stopped.live poll off) stopped.live rfl
    have emptied := polled.andExec (es := [_]) (exec_s2Inv polled.live rfl off) polled.live rfl
    exact ⟨_, emptied, rfl, off, rx, nextSeq⟩

/-- Step 7 turns the cache on again where the bracket is taken (R117). -/
theorem exists_segment_exit {taken : Bool} (h : s.coherent = true) (live : s.faults = [])
    (row : s.pc = if taken then .s7 else .ret) :
    ∃ t, Segment (exitSteps taken) s t (bracketExit taken) [] ∧ t.pc = .ret ∧ t.rx = s.rx := by
  cases taken with
  | false => exact ⟨s, .nil h live, row, rfl⟩
  | true =>
    have on := Segment.step (es := [_]) h rfl rfl (exec_s7 live row) live rfl
    exact ⟨_, on.trans (.settle on.coherent on.live), by rw [State.settleCache_eq], by rw [State.settleCache_eq]⟩

/-! ## Steps 3 and 4: programming the frame (R113, R114) -/

/-- The row at which the copy of byte `n` stands, or the start write where none is left (R114, R115). -/
def copyRow (r : Request) (n : Nat) : Pc := if n < r.length.toNat then .s5 n else .s6Start

theorem coherent_frameHeld (h : s.coherent = true) (row : s.pc = .s3Op ∨ s.pc = .s3Addr ∨ s.pc = .s3Frame) :
    s.frameHeld = false := by
  rw [State.frameHeld_false]
  rcases row with row | row | row
  all_goals
    simp [State.coherent, row] at h
    tauto

/-- Steps 3 and 4 leave the request's frame pending, numbered as the next one, with no byte moved (R90, R113, R114). -/
theorem exists_segment_program (h : s.coherent = true) (live : s.faults = []) (row : s.pc = .s3Op) :
    ∃ t p, Segment (execs 4) s t (programTrace s.req.instruction.opcode s.req.off (s.req.encoded s.cfg)) []
      ∧ t.pc = copyRow s.req 0 ∧ t.pending = some p ∧ p.seq = s.nextSeq ∧ p.data = [] ∧ t.optCode = 0
      ∧ t.csts = s.csts ∧ t.rx = s.rx := by
  have opcode := Segment.step (es := [_]) h rfl rfl (exec_s3Op live row (coherent_frameHeld h (.inl row))) live rfl
  have address := opcode.andExec (es := [_])
    (exec_s3Addr opcode.live rfl (coherent_frameHeld opcode.coherent (.inr (.inl rfl)))) opcode.live rfl
  have frame := address.andExec (es := [_])
    (exec_s3Frame address.live rfl (coherent_frameHeld address.coherent (.inr (.inr rfl)))) address.live rfl
  have settled := frame.andExec (es := [_]) ((settleReadBack _ frame.live).2 rfl) frame.live rfl
  refine ⟨_, _, settled, rfl, rfl, rfl, rfl, State.optCode_eq_zero (reservedCtrl_setWidth _), rfl, rfl⟩

/-! ## Step 5: the copy (R115) -/

/-- The copy of a byte of the request at its row: out of the buffer, or from the flash into `rx` (R92, R93, R115). -/
theorem exec_copy {n : Nat} {p : FrameRecord} (h : s.coherent = true) (live : s.faults = []) (row : s.pc = .s5 n)
    (pending : s.pending = some p) (off : (s.cfg.cachePresent && s.csts) = false) :
    ∃ b, (writeBit (s.req.encoded s.cfg) = true → s.req.buffer[n]? = some b) ∧
      exec .exec s = .next { s with
        pending := some { p with data := p.data ++ [b], next := p.next + 1 }
        rx := if writeBit (s.req.encoded s.cfg) then s.rx else s.rx ++ [b]
        history := s.history ++
          [(if writeBit (s.req.encoded s.cfg) then Event.winWrite else Event.winRead) (s.req.off.toNat + n) b]
        pc := copyRow s.req (n + 1) } := by
  obtain ⟨wf, inside, word, -, settled, inflight, q, pending', sameWord, -, -, next, -⟩ := coherent_copy_row h row
  obtain rfl : q = p := Option.some.inj (pending'.symm.trans pending)
  have place := coherent_copyOffset h row
  have hasData : dataEn q.word = true := by
    rw [sameWord, dataEn_encoded, Request.hasData_of_wellFormed wf inside]
  have passes : s.windowFault q (s.copyOffset n) (writeBit s.word) = none :=
    State.windowFault_none.mpr ⟨inflight, hasData, settled, by rw [sameWord, word], by rw [next, place], off⟩
  have copies : effect .exec s = s.copyByte n := by simp [effect, State.executorStep, row]
  rw [exec_live live, copies, ← word]
  rcases s.copyByte_cases n with ⟨write, step⟩ | ⟨read, step⟩
  · rw [write] at passes
    refine ⟨s.bufferByte n, fun _ => ?_, ?_⟩
    · simp [State.bufferByte, Request.lt_buffer_of_wellFormed wf inside]
    · rw [step, State.windowWrite_of_passes pending passes, State.copied_eq]
      simp [State.moved, State.log, State.pcAfterCopy, copyRow, row, write, place]
  · rw [read] at passes
    refine ⟨s.flashByte q.seq q.data.length, fun write => Bool.noConfusion (read.symm.trans write), ?_⟩
    rw [step, State.windowRead_of_passes pending passes, State.copied_eq]
    simp [State.moved, State.log, State.pcAfterCopy, State.atCopy, copyRow, row, read, place]

/-- The trace line of a byte copied in the direction `write` (R115). -/
def copyOp (write : Bool) : Nat → Byte → TraceOp := if write then .w8 else .r8

theorem traceOf_copy (write : Bool) (o : Nat) (b : Byte) :
    traceOf [(if write then Event.winWrite else Event.winRead) o b] = [copyOp write o b] := by
  cases write <;> rfl

theorem framesOf_copy (write : Bool) (o : Nat) (b : Byte) :
    framesOf [(if write then Event.winWrite else Event.winRead) o b] = [] := by
  cases write <;> rfl

/-- From byte `n` on the executor has copied the bytes `bs` into the frame `p`, one step for each: out of the buffer where the
request writes, into `rx` where it reads. -/
structure Copied (s t : State) (p : FrameRecord) (n : Nat) (bs : List Byte) : Prop where
  segment : Segment (execs bs.length) s t (copyTrace (copyOp (writeBit (s.req.encoded s.cfg))) (s.req.off.toNat + n) bs) []
  row : t.pc = copyRow s.req (n + bs.length)
  pending : t.pending = some { p with data := p.data ++ bs, next := p.next + bs.length }
  sent : writeBit (s.req.encoded s.cfg) = true → bs <+: s.req.buffer.drop n
  rx : t.rx = if writeBit (s.req.encoded s.cfg) then s.rx else s.rx ++ bs
  csts : t.csts = s.csts
  optCode : t.optCode = s.optCode

theorem Copied.nil {p : FrameRecord} {n : Nat} (h : s.coherent = true) (live : s.faults = [])
    (row : s.pc = copyRow s.req n) (pending : s.pending = some p) : Copied s s p n [] where
  segment := .nil h live
  row := row
  pending := by simp [pending]
  sent _ := List.nil_prefix
  rx := by simp
  csts := rfl
  optCode := rfl

theorem Copied.cons {p : FrameRecord} {n : Nat} {b : Byte} {bs : List Byte} (first : Copied s t p n [b])
    (rest : Copied t u { p with data := p.data ++ [b], next := p.next + 1 } (n + 1) bs) : Copied s u p n (b :: bs) := by
  obtain ⟨segment, row, pending, sent, rx, csts, optCode⟩ := rest
  rw [first.segment.cfg, first.segment.req] at segment sent rx
  rw [first.segment.req] at row
  refine ⟨first.segment.trans segment, ?_, ?_, fun write => ?_, ?_, csts.trans first.csts, optCode.trans first.optCode⟩
  · rw [row, List.length_cons, Nat.add_assoc, Nat.add_comm 1]
  · simp [pending, Nat.add_assoc, Nat.add_comm 1]
  · have sent := sent write
    obtain ⟨tail, eq⟩ := first.sent write
    rw [← List.tail_drop, ← eq] at sent
    rw [← eq]
    simpa using sent
  · rw [rx, first.rx]
    cases writeBit (s.req.encoded s.cfg) <;> simp

/-- One byte is copied. -/
theorem exists_copied_byte {n : Nat} {p : FrameRecord} (h : s.coherent = true) (live : s.faults = []) (row : s.pc = .s5 n)
    (pending : s.pending = some p) (off : (s.cfg.cachePresent && s.csts) = false) : ∃ t b, Copied s t p n [b] := by
  obtain ⟨b, byte, acts⟩ := exec_copy h live row pending off
  have moved := Segment.step (es := [_]) h rfl rfl acts live rfl
  rw [traceOf_copy, framesOf_copy] at moved
  refine ⟨_, b, moved, rfl, rfl, fun write => ?_, rfl, rfl, rfl⟩
  obtain ⟨inside, rfl⟩ := List.getElem?_eq_some_iff.mp (byte write)
  rw [List.drop_eq_getElem_cons inside]
  exact ⟨_, rfl⟩

/-- The executor copies the `k` bytes from `n` to the request's last one. -/
theorem exists_copied {k n : Nat} {p : FrameRecord} (h : s.coherent = true) (live : s.faults = [])
    (count : n + k = s.req.length.toNat) (row : s.pc = copyRow s.req n) (pending : s.pending = some p)
    (off : 0 < k → (s.cfg.cachePresent && s.csts) = false) : ∃ t bs, bs.length = k ∧ Copied s t p n bs := by
  induction k generalizing s n p with
  | zero => exact ⟨s, [], rfl, .nil h live row pending⟩
  | succ k ih =>
    have atCopy : s.pc = .s5 n := by rw [row, copyRow, if_pos (by omega)]
    obtain ⟨t, b, first⟩ := exists_copied_byte h live atCopy pending (off (by omega))
    have segment := first.segment
    obtain ⟨u, bs, length, rest⟩ := ih segment.coherent segment.live (n := n + 1) (by rw [segment.req]; omega)
      (by rw [segment.req]; exact first.row) first.pending fun _ => by
        rw [segment.cfg, first.csts]
        exact off (by omega)
    exact ⟨u, b :: bs, by simp [length], first.cons rest⟩

/-- WF5: the buffer has the request's length. -/
theorem Request.length_buffer {cfg : Params} {r : Request} (wf : r.wellFormed cfg = true) :
    r.buffer.length = r.length.toNat := by
  obtain ⟨none, some⟩ := (r.passes_wf5 cfg).mp ((r.wellFormed_iff cfg).mp wf .wf5)
  by_cases role : r.role = .noBuffer
  · obtain ⟨length, buffer⟩ := none role
    simp [length, buffer]
  · exact some role

/-- Step 5: a request that writes sends its buffer, and one that reads receives as many bytes as its length (R115). -/
theorem exists_segment_copy {p : FrameRecord} (h : s.coherent = true) (live : s.faults = [])
    (row : s.pc = copyRow s.req 0) (wf : s.req.wellFormed s.cfg = true) (pending : s.pending = some p) (empty : p.data = [])
    (off : 0 < s.req.length.toNat → (s.cfg.cachePresent && s.csts) = false) :
    ∃ t q received,
      Segment (execs s.req.length.toNat) s t
        (if writeBit (s.req.encoded s.cfg) then copyTrace .w8 s.req.off.toNat s.req.buffer
          else copyTrace .r8 s.req.off.toNat received) []
      ∧ t.pc = .s6Start ∧ t.pending = some q ∧ q.seq = p.seq ∧ t.optCode = s.optCode ∧ t.rx = s.rx ++ received
      ∧ received.length = (if writeBit (s.req.encoded s.cfg) then 0 else s.req.length.toNat)
      ∧ q.data = (if writeBit (s.req.encoded s.cfg) then s.req.buffer else received) := by
  obtain ⟨t, bs, length, copied⟩ := exists_copied h live (Nat.zero_add _) row pending off
  have atStart : t.pc = .s6Start := by rw [copied.row, copyRow, if_neg (by omega)]
  have segment := copied.segment
  have rx := copied.rx
  rw [length] at segment
  cases direction : writeBit (s.req.encoded s.cfg)
  · simp only [direction] at segment rx
    exact ⟨t, _, bs, segment, atStart, copied.pending, rfl, copied.optCode, rx, length, by simp [empty]⟩
  · have all : bs = s.req.buffer := (copied.sent direction).eq_of_length (by simp [length, Request.length_buffer wf])
    subst all
    simp only [direction] at segment rx
    exact ⟨t, _, [], segment, atStart, copied.pending, rfl, copied.optCode, by simpa using rx, rfl, by simp [empty]⟩

/-! ## Step 6: the start, the completion and its flag (R94-R99, R116) -/

/-- At the start write the pending frame is the request's, with all its bytes moved (R115). -/
theorem coherent_start_isOf {p : FrameRecord} (h : s.coherent = true) (row : s.pc = .s6Start)
    (pending : s.pending = some p) : p.IsOf s.cfg s.req s.req.length.toNat := by
  simp [State.coherent, row, pending] at h
  tauto

/-- The rows from the start write to the clear, with the controller's completion before the poll: the frame is performed. -/
theorem exists_segment_finish {p : FrameRecord} (h : s.coherent = true) (live : s.faults = []) (row : s.pc = .s6Start)
    (pending : s.pending = some p) (free : s.frameWedged p.seq = false) :
    ∃ t, Segment (execs 3 ++ .complete :: execs 2) s t finishTrace [frameEventOf p s.optCode]
      ∧ t.pc = (if s.req.bracketed s.cfg then .s7 else .ret) ∧ t.rx = s.rx := by
  obtain ⟨bracket, settled, idle, clear⟩ : s.bracket = s.req.bracketed s.cfg ∧ s.settled = true ∧ s.inflight = false
      ∧ s.instrend = false := by
    simp [State.coherent, row] at h
    tauto
  have started := Segment.step (es := [_, _]) h rfl rfl (exec_s6Start live row pending idle settled clear) live rfl
  have dsb := started.andExec (es := [_]) (exec_s6Dsb started.live rfl) started.live rfl
  have isb := dsb.andExec (es := [_]) (exec_s6Isb dsb.live rfl) dsb.live rfl
  have completed := isb.trans (.step (es := [_]) isb.coherent rfl rfl
    (exec_complete isb.live pending rfl free) isb.live rfl)
  have polled := completed.andExec (es := [_]) (exec_s6Poll completed.live rfl rfl) completed.live rfl
  have cleared := polled.andExec (es := [_]) (exec_s6Clr polled.live rfl) polled.live rfl
  rw [← bracket]
  exact ⟨_, cleared, rfl, rfl⟩

/-! ## The whole request (R107, R118, R119) -/

/-- The event of the request's frame, performed with its bytes moved (R32, R94, R119). -/
theorem frameEventOf_isOf {p : FrameRecord} {cfg : Params} {r : Request} {received : List Byte}
    (wf : r.wellFormed cfg = true) (its : p.IsOf cfg r r.length.toNat)
    (data : p.data = if r.effectiveType.getLsbD 1 then r.buffer else received) :
    frameEventOf p 0 = expectedFrame cfg r p.seq received := by
  obtain ⟨word, opcode, addr, -, -⟩ := its
  have programmed : (if r.instruction.hasAddress then cfg.addrLen.low r.off else 0) = r.off := by
    rw [Request.low_off wf, Sys2Proof.Request.off]
    cases r.instruction.hasAddress <;> rfl
  rw [frameEventOf_frameWord word, opcode, addr, data, expectedFrame]
  congr 1
  change (if r.instruction.hasData then _ else _) = _
  cases r.instruction.hasData <;> rfl

@[simp] theorem copyTrace_length (op : Nat → Byte → TraceOp) (off : Nat) (bs : List Byte) :
    (copyTrace op off bs).length = bs.length := by
  induction bs generalizing off with
  | nil => rfl
  | cons b bs ih => simp [copyTrace, ih]

/-- A request has 9 micro-operations, one for each byte moved, and 4 for the bracket (R119). -/
theorem expectedTrace_length {cfg : Params} {r : Request} {received : List Byte} (wf : r.wellFormed cfg = true)
    (count : writeBit (r.encoded cfg) = false → received.length = r.length.toNat) :
    (expectedTrace cfg r received).length = 9 + r.length.toNat + (if r.bracketed cfg then 4 else 0) := by
  have buffer := Request.length_buffer wf
  have copied : (if writeBit (r.encoded cfg) then copyTrace .w8 r.off.toNat r.buffer
      else copyTrace .r8 r.off.toNat received).length = r.length.toNat := by
    cases direction : writeBit (r.encoded cfg)
    · simpa using count direction
    · simpa using buffer
  simp only [expectedTrace, List.length_append, copied]
  cases r.bracketed cfg
  all_goals
    simp [bracketEntry, programTrace, finishTrace, bracketExit]
    omega

/-- A ready machine is at the step table's beginning (R151, R158). -/
theorem coherent_of_ready (wf : s.cfg.wf = true) (ready : s.ready = true) : s.coherent = true ∧ s.faults = []
    ∧ s.busy = false ∧ s.enable = true := by
  simp [State.ready] at ready
  obtain ⟨⟨⟨⟨⟨⟨live, free⟩, row⟩, none⟩, idle⟩, clear⟩, on⟩ := ready
  refine ⟨?_, live, free, on⟩
  simp [State.coherent, wf, free, row, none, idle, clear]

/-- The entry checks and the window pointer: no micro-operation (R109, R110). -/
theorem exists_segment_entryChecks (h : s.coherent = true) (live : s.faults = []) (row : s.pc = .check)
    (wf : s.req.wellFormed s.cfg = true) (on : s.enable = true) :
    ∃ t, Segment (execs 2) s t [] [] ∧ t.pc = (if s.req.bracketed s.cfg then .s2Dis else .s3Op)
      ∧ t.history = s.history ∧ t.rx = s.rx ∧ t.nextSeq = s.nextSeq ∧ t.csts = s.csts := by
  obtain ⟨-, -, passes⟩ := entryChecks.1 s live row
  have checked := Segment.step (es := []) h rfl rfl (passes (Request.firstFailing_none.mpr wf) on) live (by simp)
  have pointed := checked.andExec (es := []) (exec_s1 checked.live rfl) checked.live (by simp)
  exact ⟨_, pointed, rfl, rfl, rfl, rfl, rfl⟩

theorem State.frameWedged_congr (cfg : t.cfg = s.cfg) (n : Nat) : t.frameWedged n = s.frameWedged n := by
  simp [State.frameWedged, cfg]

theorem State.cacheWedged_congr (cfg : t.cfg = s.cfg) (n : Nat) : t.cacheWedged n = s.cacheWedged n := by
  simp [State.cacheWedged, cfg]

/-- The steps of the schedule between the submission and the return (95_test_vectors.md 0). -/
def scheduleToReturn (p : Params) (r : Request) : List Instr :=
  execs 2 ++ entrySteps (r.bracketed p) ++ execs 4 ++ execs r.length.toNat ++ (execs 3 ++ .complete :: execs 2)
    ++ exitSteps (r.bracketed p)

theorem scheduleOf_eq (p : Params) (r : Request) :
    scheduleOf p r = .submit r :: (scheduleToReturn p r ++ [.exec]) := by
  simp [scheduleOf, scheduleToReturn, entrySteps, exitSteps, execs]

/-- From the submission on, a request that meets no wedge and no active cache runs to its return: with R119's trace, one
frame, and the bytes it reads in `rx`. -/
theorem exists_segment_request (h : s.coherent = true) (live : s.faults = []) (row : s.pc = .check)
    (wf : s.req.wellFormed s.cfg = true) (on : s.enable = true) (empty : s.rx = [])
    (completes : s.frameWedged s.nextSeq = false)
    (stops : s.req.bracketed s.cfg = true → s.csts = true →
      s.cacheWedged (s.history.count (.regWrite .cmccCtrl 0)) = false)
    (inactive : s.req.bracketed s.cfg = false → 0 < s.req.length.toNat → s.cfg.cachePresent = false ∨ s.csts = false) :
    ∃ t received, Segment (scheduleToReturn s.cfg s.req) s t (expectedTrace s.cfg s.req received)
        [expectedFrame s.cfg s.req s.nextSeq received]
      ∧ t.pc = .ret ∧ t.rx = received
      ∧ received.length = (if s.req.effectiveType.getLsbD 1 then 0 else s.req.length.toNat) := by
  obtain ⟨a, accept, aRow, aHistory, aRx, aSeq, aCsts⟩ := exists_segment_entryChecks h live row wf on
  obtain ⟨b, entry, bRow, bCsts, bRx, bSeq⟩ := exists_segment_entry accept.coherent accept.live aRow (by
    rw [aCsts, aHistory, State.cacheWedged_congr accept.cfg]
    exact stops)
  obtain ⟨c, p, program, cRow, pending, seq, empty', optCode, cCsts, cRx⟩ :=
    exists_segment_program entry.coherent entry.live bRow
  have toEntry := accept.trans entry
  have toProgram := toEntry.trans program
  obtain ⟨d, q, received, copy, dRow, dPending, dSeq, dOptCode, dRx, count, data⟩ :=
    exists_segment_copy program.coherent program.live (by rw [program.req]; exact cRow)
      (by rw [toProgram.req, toProgram.cfg]; exact wf) pending empty' fun more => by
      rw [toProgram.req] at more
      rw [toProgram.cfg, cCsts, bCsts, aCsts]
      cases taken : s.req.bracketed s.cfg
      · rcases inactive taken more with off | off <;> simp [off]
      · simp
  have toCopy := toProgram.trans copy
  obtain ⟨e, finish, eRow, eRx⟩ := exists_segment_finish copy.coherent copy.live dRow dPending (by
    rw [State.frameWedged_congr toCopy.cfg, dSeq, seq, bSeq, aSeq, completes])
  obtain ⟨t, exit, tRow, tRx⟩ := exists_segment_exit finish.coherent finish.live eRow
  have performed : frameEventOf q d.optCode = expectedFrame s.cfg s.req s.nextSeq received := by
    have its := coherent_start_isOf copy.coherent dRow dPending
    rw [toCopy.cfg, toCopy.req] at its
    rw [toProgram.cfg, toProgram.req, writeBit_encoded] at data
    rw [dOptCode, optCode, frameEventOf_isOf wf its data, dSeq, seq, bSeq, aSeq]
  refine ⟨t, received, ?_, tRow, ?_, ?_⟩
  · have all := (toCopy.trans finish).trans exit
    simpa only [toEntry.cfg, toEntry.req, toProgram.cfg, toProgram.req, toCopy.cfg, toCopy.req, performed, expectedTrace,
      scheduleToReturn, List.nil_append, List.append_nil] using all
  · rw [tRx, eRx, dRx, cRx, bRx, aRx, empty, List.nil_append]
  · rw [count, toProgram.req, toProgram.cfg, writeBit_encoded]

/-- From the return the machine comes to a ready state, with a result and no other change that a run tells of (R118). -/
theorem exists_segment_return (h : s.coherent = true) (live : s.faults = []) (row : s.pc = .ret) :
    ∃ t, Segment [.exec] s t [] [] ∧ t.ready = true
      ∧ (t.result = some (.ok (if s.req.role = .rx then s.rx else []))
        ∨ (s.cfg.failureAdmitted = true ∧ t.result = some .fail)) := by
  have returned := Segment.step (es := [_]) h rfl rfl (exec_ret live row) live rfl
  refine ⟨_, returned, ?_, ?_⟩
  · simp [State.coherent, row] at h
    simp [State.ready, live]
    tauto
  · rcases s.returnValue_cases with ok | ⟨admitted, fail⟩
    · exact .inl (congrArg some ok)
    · exact .inr ⟨admitted, congrArg some fail⟩

/-- A submission is no micro-operation and no frame (R31, R119). -/
theorem State.submitted_trace (r : Request) : traceOf (s.submitted r).history = traceOf s.history := by
  simp [State.submitted, traceOf, traceOpOf]

theorem State.submitted_frames (r : Request) : framesOf (s.submitted r).history = framesOf s.history := by
  simp [State.submitted, frameEventOf?]

/-- Settles O59: the submission, the request's run to its return, and the return. -/
theorem requestRunsToCompletion : Obligations.RequestRunsToCompletion := by
  intro s r cfgWf ready wf completes stops inactive
  obtain ⟨h, live, free, on⟩ := coherent_of_ready cfgWf ready
  have submits : exec (.submit r) s = .next (s.submitted r) := (submission s r live).2 free
  have submitted : (s.submitted r).coherent = true := coherentKeptByAgents _ _ _ h rfl submits
  obtain ⟨t, received, run, row, rx, count⟩ := exists_segment_request submitted live rfl wf on rfl completes
    (by simpa [State.submitted, State.cacheWedged] using stops) inactive
  obtain ⟨u, returned, uReady, result⟩ := exists_segment_return run.coherent run.live row
  have all := run.trans returned
  rw [rx, run.req, run.cfg] at result
  refine ⟨u, received, ?_, uReady, all.refused, count, ?_, expectedTrace_length wf ?_, ?_, result⟩
  · rw [scheduleOf_eq, runInstrs, submits]
    exact all.run
  · rw [all.trace, State.submitted_trace, List.append_nil]
    rfl
  · intro read
    rw [writeBit_encoded] at read
    exact count.trans (if_neg (Bool.eq_false_iff.mp read))
  · rw [all.frame, State.submitted_frames, List.append_nil]
    rfl

end Sys2Proof.Machine

/-! Proofs about the command templates (43_command_templates.md): the frame word and the submission of each. -/

namespace Sys2Proof.Machine

/-! ## The frame words of the templates (R123-R130) -/

theorem bitField_addrLen (a : AddrLen) : bitField a.bit 10 = if a = .a32 then 0x00000400 else 0 := by
  cases a <;> decide

/-- `ADDRLEN` is bit 10 of a frame word, beside the word of the other fields (R58). -/
theorem frameWord_addrLen (t : BitVec 2) (f : FrameFields) :
    frameWord t f = frameWord t { f with addrLen := .a24 } ||| (if f.addrLen = .a32 then 0x00000400 else 0) := by
  have last (u v : Word) : u ||| bitField f.addrLen.bit 10 ||| v = u ||| v ||| bitField f.addrLen.bit 10 := by
    rw [BitVec.or_assoc, BitVec.or_comm _ v, BitVec.or_assoc]
  have noBit : bitField AddrLen.a24.bit 10 = 0#32 := rfl
  simp only [← bitField_addrLen, frameWord, last, noBit, BitVec.or_zero]

/-- The parameters enter a request's word by bit 10 alone, set for 32-bit addresses (R80). -/
theorem Request.encoded_eq_or (p : Params) (r : Request) :
    r.encoded p = encodeFrame .a24 r.instruction (r.role == .tx) r.length ||| (if p.addrLen = .a32 then 0x00000400 else 0) :=
  frameWord_addrLen _ _

/-- A register command's word: its phases at their bits and its effective type (R74, R125-R128). -/
theorem encodeFrame_registerCommand (op : Byte) (hasAddress hasData txPresent : Bool) (length : Word) :
    encodeFrame .a24 (registerCommand op hasAddress hasData) txPresent length
      = 0x10 ||| bitField hasAddress 5 ||| bitField hasData 7
        ||| ((effectiveType .read txPresent length).setWidth 32 <<< 12) := by
  have word : ∀ (t : BitVec 2) (hasAddress hasData : Bool),
      frameWord t (encodeFields .a24 (registerCommand 0 hasAddress hasData))
        = 0x10 ||| bitField hasAddress 5 ||| bitField hasData 7 ||| (t.setWidth 32 <<< 12) := by decide
  exact word _ hasAddress hasData

/-- A register command that sends nothing has the read type, 0, for every length (R81, R125, R126, R128). -/
theorem encodeFrame_registerCommand_read (op : Byte) (hasAddress hasData : Bool) (length : Word) :
    encodeFrame .a24 (registerCommand op hasAddress hasData) false length
      = 0x10 ||| bitField hasAddress 5 ||| bitField hasData 7 := by
  rw [encodeFrame_registerCommand, effectiveType_base _ (.inl rfl)]
  exact BitVec.or_zero

/-- A count of bytes that fits a word is 0 as a word only for the empty list (R65). -/
theorem ofNat_length_ne_zero {bytes : List Byte} (fits : bytes.length < 2 ^ 32) (nonempty : bytes ≠ []) :
    BitVec.ofNat 32 bytes.length ≠ 0 := by
  have pos : 0 < bytes.length := List.length_pos_of_ne_nil nonempty
  rw [← toNat_pos_iff, BitVec.toNat_ofNat, Nat.mod_eq_of_lt fits]
  exact pos

/-- The word of a register write has the write type only when it has bytes to send (R82, R127). -/
theorem encodeFrame_write (op : Byte) {bytes : List Byte} (fits : bytes.length < 2 ^ 32) :
    encodeFrame .a24 (registerCommand op false true) true (BitVec.ofNat 32 bytes.length)
      = if bytes = [] then 0x00000090 else 0x00002090 := by
  rw [encodeFrame_registerCommand]
  split
  next empty =>
    rw [empty]
    decide
  next nonempty =>
    rw [effectiveType_override _ (ofNat_length_ne_zero fits nonempty)]
    decide

/-- The word of a memory read carries the dummy count of the parameters (R84, R129). -/
theorem encodeFrame_readMemory (op : Byte) (dummy : BitVec 5) (length : Word) :
    encodeFrame .a24 ⟨op, true, true, dummy.toNat, .quad, .readMemory⟩ false length
      = 0x000010B2 ||| (dummy.setWidth 32 <<< 16) := by
  have word : ∀ dummy : BitVec 5, frameWord 1 (encodeFields .a24 ⟨0, true, true, dummy.toNat, .quad, .readMemory⟩)
      = 0x000010B2 ||| (dummy.setWidth 32 <<< 16) := by decide
  exact word dummy

/-- The word of a memory write has the write type for every length (R81, R130). -/
theorem encodeFrame_writeMemory (op : Byte) (length : Word) :
    encodeFrame .a24 ⟨op, true, true, 0, .quad, .writeMemory⟩ true length = 0x000030B2 := by
  have word : frameWord 3 (encodeFields .a24 ⟨0, true, true, 0, .quad, .writeMemory⟩) = 0x000030B2 := by decide
  rw [encodeFrame, effectiveType_of_write (.inr rfl)]
  exact word

/-- Settles O18: bit 10 set apart, the word of each template is one for all parameters. -/
theorem templateFrameWords : Obligations.TemplateFrameWords := by
  intro p op a len bytes nocache fits word
  have encoded {r : Request} {w : Word} (its : encodeFrame .a24 r.instruction (r.role == .tx) r.length = w) :
      r.encoded p = word w := by
    rw [Request.encoded_eq_or, its]
  exact ⟨encoded (encodeFrame_registerCommand_read op false false 0),
    encoded (encodeFrame_registerCommand_read op false true len),
    encoded (encodeFrame_write op fits),
    encoded (encodeFrame_registerCommand_read op true false 0),
    encoded (encodeFrame_readMemory _ p.qreadDummy len),
    encoded (encodeFrame_writeMemory _ _)⟩

/-! ## The templates' submissions (R123-R130) -/

/-- Settles O37: on every state a template has the effect of its request's submission, so it is that step. -/
theorem templatesSubmitTheirRequest : Obligations.TemplatesSubmitTheirRequest := by
  intro s op len a bytes nocache d qread qprog k template
  have sameEffect : effect k.1 s = effect (.submit k.2) s := by
    simp only [List.mem_cons, List.not_mem_nil, or_false] at template
    rcases template with rfl | rfl | rfl | rfl | rfl | rfl | rfl <;> rfl
  have submits : exec k.1 s = exec (.submit k.2) s := exec_eq_of_effect sameEffect
  exact ⟨submits, fun live free => submits.trans ((submission s k.2 live).2 free),
    fun live busy => submits.trans ((submission s k.2 live).1 busy)⟩

end Sys2Proof.Machine

/-! Proofs about the errors (60_exceptions.md): accesses by other agents, what a fault leaves and stops, and which faults the
block's own agents reach. -/

namespace Sys2Proof

/-! ## Accesses by other agents (R43, R140) -/

theorem Reg.mem_all (r : Reg) : r ∈ Reg.all := by cases r <;> decide

/-- A byte of the block is one of its window or one of its registers' (R16, R36). -/
theorem Params.ownsByte_iff {p : Params} {a : Word} :
    p.ownsByte a = true ↔ p.inWindow a = true ∨ ∃ r, a &&& 0xFFFFFFFC = p.regAddr r := by
  simp [Params.ownsByte, Reg.mem_all]

theorem Access.touchesBlock_iff {p : Params} {a : Access} : a.touchesBlock p = true ↔
    ∃ k < a.bytes, p.inWindow (a.addr + BitVec.ofNat 32 k) = true ∨
      ∃ r, (a.addr + BitVec.ofNat 32 k) &&& 0xFFFFFFFC = p.regAddr r := by
  simp only [Access.touchesBlock, List.any_eq_true, List.mem_range, Params.ownsByte_iff]

end Sys2Proof

namespace Sys2Proof.Machine

variable {s t : State} {i : Instr}

/-- A live machine whose script begins with another agent's access takes it from the script and answers its effect (R140). -/
theorem step_eq_foreignAccess_of_fetch {a : Access} {rest : List Byte} (live : s.faults = []) (hne : s.script ≠ [])
    (hf : s.fetch = .foreign a rest) : step s = .next ((s.withScript rest).foreignAccess a) := by
  obtain ⟨b, bs, hs⟩ := List.exists_cons_of_ne_nil hne
  simp only [step, State.haltedBy_live live, hs, hf]

/-- Settles O4: the step is the foreign access, which sets the mark exactly where a byte of it is the block's. -/
theorem foreignAccessSetsRefused : Obligations.ForeignAccessSetsRefused := by
  intro s a rest live hne fetched
  rw [step_eq_foreignAccess_of_fetch live hne fetched]
  constructor
  · intro touches
    exact congrArg _ (if_pos (Access.touchesBlock_iff.mpr touches))
  · intro outside
    have untouched : ¬ a.touchesBlock s.cfg = true := by
      rw [Access.touchesBlock_iff]
      rintro ⟨k, inside, touches⟩
      obtain ⟨notWindow, noRegister⟩ := outside k inside
      rcases touches with window | ⟨r, register⟩
      · exact Bool.noConfusion (notWindow.symm.trans window)
      · exact noRegister r register
    exact congrArg _ (if_neg untouched)

/-! ## What a fault stops and what it leaves (R34, R137) -/

/-- A machine is halted by the first of its recorded faults. -/
theorem State.haltedBy_cons {f : FaultEntry} {fs : List FaultEntry} (faulted : s.faults = f :: fs) :
    s.haltedBy = some f.code := by
  simp [State.haltedBy, faulted]

/-- Settles O5: the step and every instruction ask first whether the machine is halted. -/
theorem noStepAfterFault : Obligations.NoStepAfterFault := by
  intro s f fs faulted
  have halted := State.haltedBy_cons faulted
  refine ⟨?_, fun i => ?_⟩
  · simp only [step, halted]
  · simp only [exec_eq_effect, State.whenLive, halted]

/-- The only change that records a fault is the raising of one. -/
theorem Change.raises (c : Change s i t) (recorded : t.faults ≠ s.faults) : ∃ code info, t = s.raise code info := by
  cases c with
  | raised code info => exact ⟨code, info, rfl⟩
  | _ => simp at recorded

/-- Settles O47: the change is the raising of a fault, and a faulted state has no next state and no successful end. -/
theorem faultLeavesEverythingElse : Obligations.FaultLeavesEverythingElse := by
  intro s t i acts recorded
  obtain ⟨live, c⟩ := Change.of_exec acts
  obtain ⟨code, info, rfl⟩ := c.raises recorded
  have faulted : (s.raise code info).faults = [⟨code, info, s.pc⟩] := by simp [live]
  obtain ⟨noStep, noInstr⟩ := noStepAfterFault _ _ _ faulted
  obtain ⟨-, -, notEnded⟩ := faultsAndRefusedOnlyGrow
  exact ⟨⟨code, info, rfl⟩, fun j u => by simp [noInstr], fun u => by simp [noStep],
    (notEnded _ (.inl (by simp))).1⟩

/-! ## The faults that the block's agents reach (R138) -/

/-- A fault of R138 that the executor or the caller reaches, with the place at which each arises. -/
inductive Reaches (s : State) : FaultCode → Prop where
  | malformedRequest (row : s.pc = .check) : Reaches s .malformedRequest
  | reentrantCall (busy : s.busy = true) : Reaches s .reentrantCall
  | notEnabled (row : s.pc = .check) : Reaches s .notEnabled
  | cacheActiveDataPhase (n : Nat) (row : s.pc = .s5 n) (bracket : s.bracket = false) (optsOut : s.req.optOut = true)
      (on : s.csts = true) : Reaches s .cacheActiveDataPhase

/-- `t` has the faults of `s`, or it is `s` with one reached fault raised. -/
def FaultsOnlyReached (s t : State) : Prop :=
  t.faults = s.faults ∨ ∃ code info, t = s.raise code info ∧ Reaches s code

theorem FaultsOnlyReached.raised {code : FaultCode} (info : FaultInfo) (h : Reaches s code) :
    FaultsOnlyReached s (s.raise code info) :=
  .inr ⟨code, info, rfl, h⟩

/-- The caller's faults: a request or a clock rate while a request is in progress (R108, R122). -/
theorem FaultsOnlyReached.submitRequest (s : State) (r : Request) : FaultsOnlyReached s (s.submitRequest r) := by
  rcases s.submitRequest_cases r with ⟨busy, raises⟩ | ⟨-, latches⟩
  · rw [raises]
    exact .raised _ (.reentrantCall busy)
  · rw [latches]
    exact .inl rfl

theorem FaultsOnlyReached.setClock (s : State) (hz : Nat) : FaultsOnlyReached s (s.setClock hz) := by
  rcases s.setClock_cases hz with ⟨busy, raises⟩ | ⟨-, sets⟩
  · rw [raises]
    exact .raised _ (.reentrantCall busy)
  · rw [sets]
    exact .inl rfl

/-- The faults of the entry checks (R109). -/
theorem FaultsOnlyReached.checkEntry (row : s.pc = .check) : FaultsOnlyReached s s.checkEntry := by
  rcases s.checkEntry_cases with ⟨c, -, raises⟩ | ⟨-, -, raises⟩ | ⟨-, -, passes⟩
  · rw [raises]
    exact .raised _ (.malformedRequest row)
  · rw [raises]
    exact .raised _ (.notEnabled row)
  · rw [passes]
    exact .inl rfl

/-! The two polls, the completion and the cache's step raise nothing (R97, R98, R102, R105). -/

theorem State.pollClean_faults (s : State) : s.pollClean.faults = s.faults := by
  rcases s.pollClean_cases with ⟨-, step⟩ | ⟨-, step⟩ <;> simp [step]

theorem State.pollComplete_faults (s : State) : s.pollComplete.faults = s.faults := by
  rcases s.pollComplete_cases with ⟨-, step⟩ | ⟨-, step⟩ <;> simp [step]

theorem State.completeFrame_faults (s : State) : s.completeFrame.faults = s.faults := by
  rcases s.completeFrame_cases with step | ⟨p, -, -, -, step⟩ <;> simp [step]

theorem State.settleCache_faults (s : State) : s.settleCache.faults = s.faults := by
  rw [State.settleCache_eq]

section Coherent

variable (h : s.coherent = true)
include h

/-- The start write finds the request's frame pending and settled, and the completion flag clear (R114-R116). -/
theorem coherent_start_passes (row : s.pc = .s6Start) :
    ∃ p, s.pending = some p ∧ s.inflight = false ∧ s.settled = true ∧ s.instrend = false := by
  simp [State.coherent, row] at h
  tauto

/-- A copy row at which the cache is present and active is one of a request that opted out of the bracket (R111, R112). -/
theorem coherent_copy_optsOut {n : Nat} (row : s.pc = .s5 n) (present : s.cfg.cachePresent = true) (on : s.csts = true) :
    s.bracket = false ∧ s.req.optOut = true := by
  have bracketed : s.bracket = s.req.bracketed s.cfg := by
    simp [State.coherent, row] at h
    tauto
  have out : s.bracket = false := by
    by_contra taken
    obtain ⟨-, off⟩ := coherent_copy_cacheOff h row (by simpa using taken)
    simp [off] at on
  exact ⟨out, by simpa [out, Request.bracketed, present] using bracketed⟩

/-- Row by row of the step table: what the earlier rows have established leaves no check to fail but those of `CHECK` and, at
a copy, the cache of a request without the bracket (R109-R118, R138). -/
theorem FaultsOnlyReached.of_executor (acts : exec .exec s = .next t) : FaultsOnlyReached s t := by
  obtain ⟨live, -⟩ := exec_next.mp acts
  have goesTo {u : State} (step : exec .exec s = .next u) (reached : FaultsOnlyReached s u) : FaultsOnlyReached s t := by
    rwa [Host.Outcome.next.inj (acts.symm.trans step)]
  have goesOn {u : State} (step : exec .exec s = .next u) (same : u.faults = s.faults) := goesTo step (.inl same)
  cases row : s.pc with
  | idle => exact goesOn (u := s) (exec_exec_of_step live (by simp only [State.executorStep, row])) rfl
  | check => exact goesTo (exec_exec_of_step live (by simp only [State.executorStep, row])) (.checkEntry row)
  | s1 => exact goesOn (exec_s1 live row) rfl
  | s2Dis => exact goesOn (exec_s2Dis live row) rfl
  | s2Poll => exact goesOn (exec_exec_of_step live (by simp only [State.executorStep, row])) s.pollClean_faults
  | s2Inv => exact goesOn (exec_s2Inv live row (coherent_invalidate_cacheOff h row)) rfl
  | s3Op => exact goesOn (exec_s3Op live row (coherent_frameHeld h (.inl row))) rfl
  | s3Addr => exact goesOn (exec_s3Addr live row (coherent_frameHeld h (.inr (.inl row)))) rfl
  | s3Frame => exact goesOn (exec_s3Frame live row (coherent_frameHeld h (.inr (.inr row)))) rfl
  | s4 => exact goesOn ((settleReadBack s live).2 row) rfl
  | s5 n =>
    cases active : s.cfg.cachePresent && s.csts with
    | false =>
      obtain ⟨-, -, -, -, -, -, p, pending, -⟩ := coherent_copy_row h row
      obtain ⟨b, -, moves⟩ := exec_copy h live row pending active
      exact goesOn moves rfl
    | true =>
      obtain ⟨present, on⟩ := Bool.and_eq_true_iff.mp active
      obtain ⟨bracket, optsOut⟩ := coherent_copy_optsOut h row present on
      exact goesTo (coherent_copy_faults h row live present on)
        (.raised _ (.cacheActiveDataPhase n row bracket optsOut on))
  | s6Start =>
    obtain ⟨p, pending, idle, settled, clear⟩ := coherent_start_passes h row
    exact goesOn (exec_s6Start live row pending idle settled clear) rfl
  | s6Dsb => exact goesOn (exec_s6Dsb live row) rfl
  | s6Isb => exact goesOn (exec_s6Isb live row) rfl
  | s6Poll => exact goesOn (exec_exec_of_step live (by simp only [State.executorStep, row])) s.pollComplete_faults
  | s6Clr => exact goesOn (exec_s6Clr live row) rfl
  | s7 => exact goesOn (exec_s7 live row) rfl
  | ret => exact goesOn (exec_ret live row) rfl

/-- The steps of the block's agents and the caller, one by one. -/
theorem FaultsOnlyReached.of_agent (agent : i.ofAgent = true) (acts : exec i s = .next t) : FaultsOnlyReached s t := by
  obtain ⟨-, rfl⟩ := exec_next.mp acts
  cases i with
  | runCommand | readCommand | writeCommand | writeCommandLen0 | eraseCommand | readMemory | writeMemory | submit =>
    exact .submitRequest s _
  | setclk hz => exact .setClock s hz
  | complete => exact .inl s.completeFrame_faults
  | cacheSettle => exact .inl s.settleCache_faults
  | encode => exact .inl rfl
  | exec => exact .of_executor h acts
  | _ => cases agent

end Coherent

/-- Settles O55: an agent makes no refused access, and a fault it raises is a reached one at its place. -/
theorem onlyReachableFaults : Obligations.OnlyReachableFaults := by
  intro s t i h agent acts
  obtain ⟨live, c⟩ := Change.of_exec acts
  refine ⟨c.refused_eq.resolve_right fun ⟨access, _⟩ => ?_, ?_⟩
  · simp [Instr.isAccess_of_ofAgent agent] at access
  rcases FaultsOnlyReached.of_agent h agent acts with same | ⟨code, info, rfl, reached⟩
  · exact .inl (same.trans live)
  · refine .inr ⟨⟨code, info, s.pc⟩, by simp [live], rfl, ?_⟩
    cases reached with
    | malformedRequest row => simp [FaultCode.reachable, row]
    | reentrantCall busy => simp [FaultCode.reachable, busy]
    | notEnabled row => simp [FaultCode.reachable, row]
    | cacheActiveDataPhase n row bracket optsOut on => simp [FaultCode.reachable, row, bracket, optsOut, on]

end Sys2Proof.Machine

/-! Proofs about reset and hazards (70_reset_and_hazards.md): the values after reset, the launch premise and the end of a run,
the invariants' base cases, and the return of every request of a weakly fair run. -/

namespace Sys2Proof.Machine

/-! ## The state after reset (R149, R150) -/

/-- Settles O1: the state after reset read field by field; the clear `INSTREND` adds no bit to the drawn ones. -/
theorem resetValues : Obligations.ResetValues := by
  intro p drawn
  exact ⟨rfl, BitVec.or_zero, rfl, rfl, rfl, rfl, rfl, rfl, rfl, rfl, rfl, rfl, rfl, rfl, rfl, rfl, rfl, rfl, rfl, rfl⟩

/-- After reset nothing is pending or numbered, the registers are 0, and the lines are the parameters' (R149). -/
theorem sound_launch {p : Params} (wf : p.wf = true) : Sound (State.launch p) where
  ctrlBits := show (0 : Word).extractLsb' 8 24 = 0 by decide
  frameWord := show reservedWord 0 = false by decide
  pending := by simp [State.launch]
  inflight := by simp [State.launch]
  busy := by simp [State.launch]
  faults := Nat.zero_le 1
  lines := by
    simp only [Params.wf, Bool.and_eq_true, decide_eq_true_eq] at wf
    obtain ⟨⟨-, sorted⟩, -⟩ := wf
    exact sorted
  numbered := rfl

/-- After reset the executor is idle and the controller is quiet (R149). -/
theorem coherent_launch {p : Params} (wf : p.wf = true) : (State.launch p).coherent = true := by
  simp [State.coherent, State.launch, wf]

/-- Settles O50: bring-up writes `ENABLE` only, which neither invariant reads in `IDLE`. -/
theorem invariantsHoldAtReset : Obligations.InvariantsHoldAtReset := by
  have holds {p : Params} (wf : p.wf = true) : (State.launch p).sound = true ∧ (State.launch p).coherent = true :=
    ⟨State.sound_iff.mpr (sound_launch wf), coherent_launch wf⟩
  refine ⟨fun p wf => ?_, holds (by decide)⟩
  obtain ⟨sound, coherent⟩ := holds wf
  exact ⟨sound, sound, coherent, coherent⟩

/-! ## The launch premise and the end of a run (R151, R158) -/

theorem State.cleanEntry_iff {s : State} : s.cleanEntry = true ↔
    s.faults = [] ∧ s.refused = false ∧ s.busy = false ∧ s.pc = .idle ∧ s.pending = none ∧ s.inflight = false
      ∧ s.instrend = false ∧ s.enable = true ∧ s.csts = s.cen ∧ s.history = [] := by
  simp [State.cleanEntry, and_assoc]

theorem State.runEnded_iff {s : State} : s.runEnded = true ↔
    s.faults = [] ∧ s.refused = false ∧ s.pc = .idle ∧ s.busy = false ∧ s.pending = none ∧ s.inflight = false
      ∧ s.csts = s.cen ∧ s.history.countP Event.isRequest = s.history.countP Event.isReturn := by
  simp [State.runEnded, and_assoc]

/-- Settles O2: condition by condition; before bring-up `ENABLE` is 0, and an end has the executor free, no frame in flight
and `CSTS` = `CEN`. -/
theorem cleanEntryAndEndOfRun : Obligations.CleanEntryAndEndOfRun := by
  refine ⟨fun s => State.cleanEntry_iff, fun p => ⟨?_, ?_⟩, fun s => State.runEnded_iff, fun s running => ?_⟩
  · exact State.cleanEntry_iff.mpr ⟨rfl, rfl, rfl, rfl, rfl, rfl, rfl, rfl, rfl, rfl⟩
  · refine Bool.eq_false_iff.mpr fun clean => ?_
    obtain ⟨-, -, -, -, -, -, -, enabled, -⟩ := State.cleanEntry_iff.mp clean
    cases enabled
  · refine Bool.eq_false_iff.mpr fun ended => ?_
    obtain ⟨-, -, -, free, -, idle, settled, -⟩ := State.runEnded_iff.mp ended
    rcases running with busy | inflight | differ
    · simp [free] at busy
    · simp [idle] at inflight
    · exact differ settled

variable {s t : State} {i : Instr}

/-! ## The steps of the other agents and the request in progress (R45, R87, R108) -/

/-- The executor of `t` stands at the row of `s`, with the same request. -/
def State.SameRow (s t : State) : Prop := t.pc = s.pc ∧ t.req = s.req

theorem State.SameRow.trans {u : State} (first : s.SameRow t) (second : t.SameRow u) : s.SameRow u :=
  ⟨second.1.trans first.1, second.2.trans first.2⟩

theorem coherent_busy_iff (h : s.coherent = true) : s.busy = true ↔ s.pc ≠ .idle := by
  have busy : s.busy = (s.pc != .idle) := by
    simp only [State.coherent, Bool.and_eq_true, beq_iff_eq] at h
    obtain ⟨⟨-, busy⟩, -⟩ := h
    exact busy
  rw [busy, bne_iff_ne]

/-- The executor polls for the cache's stop only after the disable (R101, R102). -/
theorem coherent_poll_off (h : s.coherent = true) (row : s.pc = .s2Poll) : s.cen = false := by
  simp [State.coherent, row] at h
  tauto

/-- A submission while a request is in progress latches none (R108). -/
theorem Change.req_eq_of_busy (c : Change s i t) (busy : s.busy = true) : t.req = s.req := by
  cases c with
  | submitted r _ _ free => simp [free] at busy
  | _ => simp

/-- While a request is in progress only the executor's own step goes to another row (R25, R87). -/
theorem Change.sameRow (c : Change s i t) (busy : s.busy = true) (agent : i.ofAgent = true) (other : i ≠ .exec) :
    s.SameRow t := by
  refine ⟨c.pc_writer.resolve_right ?_, c.req_eq_of_busy busy⟩
  rintro (⟨-, free⟩ | rfl | own | ⟨rfl, -⟩ | ⟨rfl, -⟩)
  · simp [free] at busy
  · exact other rfl
  · cases i <;> simp [Instr.ofAgent, ownRow] at agent own
  · cases agent
  · cases agent

/-! ## The executor waits at its two polls only (R98, R102, R157) -/

/-- The executor's poll is held until the own step of the agent `a` (R98, R102). -/
inductive Awaits (s : State) : Agent → Prop where
  | cache (row : s.pc = .s2Poll) (active : s.csts = true) : Awaits s .cache
  | controller (row : s.pc = .s6Poll) (clear : s.instrend = false) : Awaits s .controller

theorem State.executor_enabled_iff : s.enabled .executor = true ↔
    s.faults = [] ∧ s.pc ≠ .idle ∧ (s.pc = .s2Poll → s.csts = false) ∧ (s.pc = .s6Poll → s.instrend = true) := by
  have poll {row : Pc} {b : Bool} : (!(s.pc == row && b)) = true ↔ (s.pc = row → b = false) := by
    simp [imp_iff_not_or]
  simp only [State.enabled, Bool.and_eq_true, List.isEmpty_iff, bne_iff_ne, poll, Bool.not_eq_false', and_assoc]

theorem executor_enabled_or_awaits (live : s.faults = []) (working : s.pc ≠ .idle) :
    s.enabled .executor = true ∨ ∃ a, Awaits s a := by
  by_cases cache : s.pc = .s2Poll ∧ s.csts = true
  · exact .inr ⟨.cache, .cache cache.1 cache.2⟩
  by_cases controller : s.pc = .s6Poll ∧ s.instrend = false
  · exact .inr ⟨.controller, .controller controller.1 controller.2⟩
  refine .inl (State.executor_enabled_iff.mpr ⟨live, working, ?_, ?_⟩)
  · simpa using cache
  · simpa using controller

theorem Awaits.working {a : Agent} (waits : Awaits s a) : s.pc ≠ .idle := by
  cases waits with
  | cache row => simp [row]
  | controller row => simp [row]

/-- A held poll changes nothing (R87, Log 17). -/
theorem Awaits.exec_held {a : Agent} (waits : Awaits s a) (live : s.faults = []) : exec .exec s = .next s := by
  refine exec_exec_of_step live ?_
  cases waits with
  | cache row active => simp [State.executorStep, row, State.pollClean, active]
  | controller row clear => simp [State.executorStep, row, State.pollComplete, clear]

/-- Until the awaited step the executor waits on (R98, R102). -/
theorem Awaits.keeps {a : Agent} (waits : Awaits s a) (h : s.coherent = true) (agent : i.ofAgent = true)
    (acts : exec i s = .next t) (other : i ≠ ownStep a) : Awaits t a ∧ s.SameRow t := by
  obtain ⟨live, c⟩ := Change.of_exec acts
  by_cases executor : i = .exec
  · subst executor
    obtain rfl : s = t := Host.Outcome.next.inj ((waits.exec_held live).symm.trans acts)
    exact ⟨waits, rfl, rfl⟩
  have same := c.sameRow ((coherent_busy_iff h).mpr waits.working) agent executor
  refine ⟨?_, same⟩
  cases waits with
  | cache row active => exact .cache (same.1.trans row) ((c.csts_writer.resolve_right other).trans active)
  | controller row clear =>
    refine .controller (same.1.trans row) ((c.instrend_writer.resolve_right ?_).trans clear)
    rintro (rfl | rfl | ⟨rfl, -⟩)
    · exact other rfl
    · cases agent
    · exact executor rfl

/-- What the executor waits for is enabled where nothing is wedged: at S2_POLL the cache is to stop, and at S6_POLL the
request's frame is in flight (R97, R105, R120). -/
theorem Awaits.enabled {a : Agent} (waits : Awaits s a) (h : s.coherent = true) (live : s.faults = [])
    (frame : ∀ p, s.pending = some p → s.frameWedged p.seq = false)
    (cache : s.csts = true → s.cen = false → s.cacheWedged s.disableIndex = false) : s.enabled a = true := by
  cases waits with
  | cache row active =>
    have off := coherent_poll_off h row
    have enabled : s.settleEnabled = true :=
      State.settleEnabled_iff.mpr ⟨by simp [active, off], .inr (cache active off)⟩
    simp [State.enabled, live, enabled]
  | controller row clear =>
    obtain ⟨p, inflight, pending⟩ : ∃ p, s.inflight = true ∧ s.pending = some p := by
      simp [State.coherent, row, clear] at h
      tauto
    simp [State.enabled, live, inflight, pending, frame p pending]

/-- The awaited step ends the wait (R98, R102). -/
theorem Awaits.ends {a : Agent} (waits : Awaits s a) (on : s.enabled a = true) (acts : exec (ownStep a) s = .next t) :
    t.enabled .executor = true ∧ s.SameRow t := by
  have live := (Change.of_exec acts).1
  have working := waits.working
  cases waits with
  | cache row active =>
    have enabled : s.settleEnabled = true := by simpa [State.enabled, live] using on
    have off : s.cen = false := by simpa [active] using (State.settleEnabled_iff.mp enabled).1
    obtain rfl : s.settleCache = t := (exec_next.mp acts).2
    have same : s.SameRow s.settleCache := by rw [State.settleCache_eq]; exact ⟨rfl, rfl⟩
    refine ⟨State.executor_enabled_iff.mpr ⟨by rw [State.settleCache_faults, live], by rwa [same.1], fun _ => ?_, ?_⟩, same⟩
    · rw [State.settleCache, if_pos enabled]
      exact off
    · simp [same.1, row]
  | controller row clear =>
    obtain ⟨inflight, p, pending, free⟩ : s.inflight = true ∧ ∃ p, s.pending = some p ∧ s.frameWedged p.seq = false := by
      simpa [State.enabled, live, Option.any_eq_true] using on
    obtain rfl := Host.Outcome.next.inj ((exec_complete live pending inflight free).symm.trans acts)
    exact ⟨State.executor_enabled_iff.mpr ⟨live, working, by simp [row], fun _ => rfl⟩, rfl, rfl⟩

/-- The completion step never clears `INSTREND` (R97). -/
theorem State.completeFrame_instrend (set : s.instrend = true) : s.completeFrame.instrend = true := by
  rcases s.completeFrame_cases with held | ⟨p, -, -, -, completes⟩
  · rw [held, set]
  · rw [completes]
    rfl

/-- Once enabled, the executor's step stays so until it is taken: no other agent makes its poll wait again. -/
theorem executor_enabled_keeps (h : s.coherent = true) (on : s.enabled .executor = true) (agent : i.ofAgent = true)
    (acts : exec i s = .next t) (live : t.faults = []) (other : i ≠ .exec) : t.enabled .executor = true ∧ s.SameRow t := by
  obtain ⟨-, working, stopped, completed⟩ := State.executor_enabled_iff.mp on
  have c := (Change.of_exec acts).2
  have same := c.sameRow ((coherent_busy_iff h).mpr working) agent other
  refine ⟨State.executor_enabled_iff.mpr ⟨live, by rwa [same.1], fun row => ?_, fun row => ?_⟩, same⟩
  · rw [same.1] at row
    rcases c.csts_writer with kept | rfl
    · rw [kept, stopped row]
    · have off := coherent_poll_off h row
      obtain rfl : s.settleCache = t := (exec_next.mp acts).2
      exact State.settleCache_off off fun active => by simp [stopped row] at active
  · rw [same.1] at row
    rcases c.instrend_writer with kept | rfl | rfl | ⟨rfl, -⟩
    · rw [kept, completed row]
    · obtain rfl : s.completeFrame = t := (exec_next.mp acts).2
      exact State.completeFrame_instrend (completed row)
    · cases agent
    · exact absurd rfl other

/-! ## The executor's step nears the return (R25, R107) -/

/-- An upper bound of the executor's steps from a row to `RET`, for a request of `length` bytes (R25). -/
def Pc.stepsToReturn (length : Nat) : Pc → Nat
  | .idle    => length + 16
  | .check   => length + 15
  | .s1      => length + 14
  | .s2Dis   => length + 13
  | .s2Poll  => length + 12
  | .s2Inv   => length + 11
  | .s3Op    => length + 10
  | .s3Addr  => length + 9
  | .s3Frame => length + 8
  | .s4      => length + 7
  | .s5 i    => length - i + 6
  | .s6Start => 6
  | .s6Dsb   => 5
  | .s6Isb   => 4
  | .s6Poll  => 3
  | .s6Clr   => 2
  | .s7      => 1
  | .ret     => 0

/-- The bound at the row of a state, for its request. -/
def State.stepsToReturn (s : State) : Nat := s.pc.stepsToReturn s.req.length.toNat

theorem State.SameRow.stepsToReturn_eq (same : s.SameRow t) : t.stepsToReturn = s.stepsToReturn := by
  rw [State.stepsToReturn, same.1, same.2, State.stepsToReturn]

/-- The copy of a byte is one step nearer, whether bytes are left or not (R115). -/
theorem copyRow_stepsToReturn_lt {r : Request} {n : Nat} (inside : n < r.length.toNat) :
    (copyRow r (n + 1)).stepsToReturn r.length.toNat < (Pc.s5 n).stepsToReturn r.length.toNat := by
  unfold copyRow
  split <;> simp only [Pc.stepsToReturn] <;> omega

/-- Row by row of the step table: a step that is not held and raises no fault goes to a row nearer to `RET`. -/
theorem exec_stepsToReturn_lt (h : s.coherent = true) (on : s.enabled .executor = true) (before : s.pc ≠ .ret)
    (acts : exec .exec s = .next t) (passes : t.faults = []) : t.stepsToReturn < s.stepsToReturn := by
  obtain ⟨live, working, stopped, completed⟩ := State.executor_enabled_iff.mp on
  have goesTo {u : State} {row : Pc} (its : s.pc = row) (step : exec .exec s = .next u) (same : u.req = s.req)
      (nearer : u.pc.stepsToReturn s.req.length.toNat < row.stepsToReturn s.req.length.toNat) :
      t.stepsToReturn < s.stepsToReturn := by
    rw [Host.Outcome.next.inj (acts.symm.trans step), State.stepsToReturn, State.stepsToReturn, same, its]
    exact nearer
  have next {n : Nat} : n < n + 1 := Nat.lt_succ_self n
  cases row : s.pc with
  | idle => exact absurd row working
  | check =>
    have step : exec .exec s = .next s.checkEntry := exec_exec_of_step live (by simp only [State.executorStep, row])
    obtain rfl : s.checkEntry = t := Host.Outcome.next.inj (step.symm.trans acts)
    rcases s.checkEntry_cases with ⟨c, -, raises⟩ | ⟨-, -, raises⟩ | ⟨-, -, accepts⟩
    · simp [raises] at passes
    · simp [raises] at passes
    · rw [accepts] at step
      exact goesTo row step rfl (by rw [State.stepPc_pc, State.nextPc, row]; exact next)
  | s1 =>
    refine goesTo row (exec_s1 live row) rfl ?_
    dsimp only
    split <;> simp [Pc.stepsToReturn]
  | s2Dis => exact goesTo row (exec_s2Dis live row) rfl next
  | s2Poll => exact goesTo row (exec_s2Poll live row (stopped row)) rfl next
  | s2Inv => exact goesTo row (exec_s2Inv live row (coherent_invalidate_cacheOff h row)) rfl next
  | s3Op => exact goesTo row (exec_s3Op live row (coherent_frameHeld h (.inl row))) rfl next
  | s3Addr => exact goesTo row (exec_s3Addr live row (coherent_frameHeld h (.inr (.inl row)))) rfl next
  | s3Frame => exact goesTo row (exec_s3Frame live row (coherent_frameHeld h (.inr (.inr row)))) rfl next
  | s4 =>
    refine goesTo row ((settleReadBack s live).2 row) rfl ?_
    dsimp only
    split <;> simp [Pc.stepsToReturn]
  | s5 n =>
    obtain ⟨-, inside, -, -, -, -, p, pending, -⟩ := coherent_copy_row h row
    cases active : s.cfg.cachePresent && s.csts with
    | false =>
      obtain ⟨b, -, moves⟩ := exec_copy h live row pending active
      exact goesTo row moves rfl (copyRow_stepsToReturn_lt inside)
    | true =>
      obtain ⟨present, on⟩ := Bool.and_eq_true_iff.mp active
      obtain rfl := Host.Outcome.next.inj ((coherent_copy_faults h row live present on).symm.trans acts)
      simp [State.faultedWith] at passes
  | s6Start =>
    obtain ⟨p, pending, idle, settled, clear⟩ := coherent_start_passes h row
    exact goesTo row (exec_s6Start live row pending idle settled clear) rfl next
  | s6Dsb => exact goesTo row (exec_s6Dsb live row) rfl next
  | s6Isb => exact goesTo row (exec_s6Isb live row) rfl next
  | s6Poll => exact goesTo row (exec_s6Poll live row (completed row)) rfl next
  | s6Clr =>
    refine goesTo row (exec_s6Clr live row) rfl ?_
    dsimp only
    split <;> simp [Pc.stepsToReturn]
  | s7 => exact goesTo row (exec_s7 live row) rfl next
  | ret => exact absurd row before

/-! ## Fair runs (R157) -/

/-- Under weak fairness what keeps an agent's step enabled until it is taken comes to a state where it is taken. -/
theorem WeaklyFair.exists_taken {acts : Nat → Instr} {run : Nat → State} (fair : WeaklyFair acts run) {a : Agent} {n : Nat}
    {P : State → Prop} (start : P (run n)) (enabled : ∀ k, P (run k) → (run k).enabled a = true)
    (keeps : ∀ k, P (run k) → acts k ≠ ownStep a → P (run (k + 1))) : ∃ m, P (run m) ∧ acts m = ownStep a := by
  by_contra never
  have untaken : ∀ k, P (run k) → acts k ≠ ownStep a := fun k holds taken => never ⟨k, holds, taken⟩
  have always : ∀ k, n ≤ k → P (run k) := fun k hk => by
    induction k, hk using Nat.le_induction with
    | base => exact start
    | succ k _ holds => exact keeps k holds (untaken k holds)
  obtain ⟨m, hm, off | taken⟩ := fair a n
  · rw [enabled m (always m hm)] at off
    cases off
  · exact untaken m (always m hm) taken

/-- What R157 assumes of an infinite run: the agents' steps only, from a coherent state, fairly scheduled, with no pending
frame and no disable of an active cache wedged. -/
structure FairRun (acts : Nat → Instr) (run : Nat → State) : Prop where
  steps : IsRun acts run
  fair : WeaklyFair acts run
  agents : ∀ n, (acts n).ofAgent = true
  start : (run 0).coherent = true
  frames : ∀ n p, (run n).pending = some p → (run n).frameWedged p.seq = false
  caches : ∀ n, (run n).csts = true → (run n).cen = false → (run n).cacheWedged (run n).disableIndex = false

namespace FairRun

variable {acts : Nat → Instr} {run : Nat → State} (r : FairRun acts run)
include r

/-- An infinite run records no fault: its every state has a step (R137). -/
theorem live (n : Nat) : (run n).faults = [] := (Change.of_exec (r.steps n)).1

theorem coherent (n : Nat) : (run n).coherent = true := by
  induction n with
  | zero => exact r.start
  | succ n h => exact coherentKeptByAgents _ _ _ h (r.agents n) (r.steps n)

/-- A wait of the executor ends, and it comes to be enabled at its row (R98, R102). -/
theorem exists_enabled {n : Nat} (working : (run n).pc ≠ .idle) :
    ∃ m, (run m).enabled .executor = true ∧ (run n).SameRow (run m) := by
  rcases executor_enabled_or_awaits (r.live n) working with on | ⟨a, waits⟩
  · exact ⟨n, on, rfl, rfl⟩
  have enabled (k : Nat) (waits : Awaits (run k) a) : (run k).enabled a = true :=
    waits.enabled (r.coherent k) (r.live k) (r.frames k) (r.caches k)
  obtain ⟨m, ⟨waits, same⟩, taken⟩ := r.fair.exists_taken (P := fun s => Awaits s a ∧ (run n).SameRow s) ⟨waits, rfl, rfl⟩
    (fun k holds => enabled k holds.1) fun k ⟨waits, same⟩ other =>
      (waits.keeps (r.coherent k) (r.agents k) (r.steps k) other).imp_right same.trans
  have ended : exec (ownStep a) (run m) = .next (run (m + 1)) := taken ▸ r.steps m
  exact ⟨m + 1, (waits.ends (enabled m waits) ended).imp_right same.trans⟩

/-- The executor comes to take its step at its row (Log 35). -/
theorem exists_exec {n : Nat} (working : (run n).pc ≠ .idle) :
    ∃ m, (run m).enabled .executor = true ∧ (run n).SameRow (run m) ∧ acts m = .exec := by
  obtain ⟨k, on, same⟩ := r.exists_enabled working
  obtain ⟨m, ⟨on, same⟩, taken⟩ := r.fair.exists_taken (a := .executor)
    (P := fun s => s.enabled .executor = true ∧ (run n).SameRow s) ⟨on, same⟩ (fun k holds => holds.1)
    fun k ⟨on, same⟩ other =>
      (executor_enabled_keeps (r.coherent k) on (r.agents k) (r.steps k) (r.live (k + 1)) other).imp_right same.trans
  exact ⟨m, on, same, taken⟩

/-- Row by row the request comes to its return (R118). -/
theorem exists_return {n : Nat} (busy : (run n).busy = true) : ∃ m, (run m).pc = .ret ∧ acts m = .exec := by
  induction steps : (run n).stepsToReturn using Nat.strong_induction_on generalizing n with
  | _ k nearer =>
    obtain ⟨m, on, same, taken⟩ := r.exists_exec ((coherent_busy_iff (r.coherent n)).mp busy)
    by_cases row : (run m).pc = .ret
    · exact ⟨m, row, taken⟩
    have acts' : exec .exec (run m) = .next (run (m + 1)) := taken ▸ r.steps m
    have working : (run m).busy = true := by
      rw [coherent_busy_iff (r.coherent m), same.1]
      exact (coherent_busy_iff (r.coherent n)).mp busy
    obtain ⟨-, kept⟩ := (Change.of_exec acts').2.result_writer.resolve_right fun h => row h.2
    have lt := exec_stepsToReturn_lt (r.coherent m) on row acts' (r.live (m + 1))
    rw [same.stepsToReturn_eq, steps] at lt
    exact nearer _ lt (kept working) rfl

/-- Until its return the request is the one in progress (R26, R108). -/
theorem in_progress (busy : (run 0).busy = true) {n : Nat} (before : ∀ m < n, ¬ ((run m).pc = .ret ∧ acts m = .exec)) :
    (run n).busy = true ∧ (run n).req = (run 0).req := by
  induction n with
  | zero => exact ⟨busy, rfl⟩
  | succ n ih =>
    obtain ⟨busy, same⟩ := ih fun m hm => before m (Nat.lt_succ_of_lt hm)
    have c := (Change.of_exec (r.steps n)).2
    obtain ⟨-, kept⟩ := c.result_writer.resolve_right fun h => before n (Nat.lt_succ_self n) h.symm
    exact ⟨kept busy, (c.req_eq_of_busy busy).trans same⟩

end FairRun

/-- Settles O60: the first time EXEC is taken at RET; every wait before it ends, and each step of the executor is nearer. -/
theorem fairRunsReturn : Obligations.FairRunsReturn := by
  intro acts run steps fair agents start busy frames caches
  have r : FairRun acts run := ⟨steps, fair, agents, start, frames, caches⟩
  have returns := r.exists_return busy
  obtain ⟨row, taken⟩ := Nat.find_spec returns
  have step := taken ▸ steps (Nat.find returns)
  have returned := Host.Outcome.next.inj (step.symm.trans (exec_ret (r.live _) row))
  refine ⟨Nat.find returns, row, taken, fun m hm => r.in_progress busy fun k hk => ?_, ?_⟩
  · exact Nat.find_min returns (Nat.lt_of_lt_of_le hk hm)
  · rw [returned]
    exact ⟨rfl, rfl, _, rfl, rfl⟩

end Sys2Proof.Machine
